-- ==== Sys2Proof/Word.lean ====
section
/-! DEFINITION. The machine's two data widths and its 4-bit selectors. -/

namespace Sys2Proof

/-- A memory cell, a general register, a timer: 8 bits (spec/10_state.md R21, R25, R33). -/
abbrev Byte := BitVec 8

/-- An opcode, PC, I, a stack slot: 16 bits (spec/10_state.md R28, R29, R31, spec/30_encoding.md R90). -/
abbrev Word := BitVec 16

/-- A register selector `x` or `y`: 4 bits, V0 to VF (spec/00_scope.md R13, spec/10_state.md R25). -/
abbrev Reg := Fin 16

/-- The 4-bit count `n` of DRW (spec/30_encoding.md R92). -/
abbrev Nibble := Fin 16

/-- VF, general register 15 and the flag register (spec/10_state.md R27). -/
abbrev Reg.vf : Reg := 15

end Sys2Proof
end

