-- ==== Sys2Proof/Syntax.lean ====
section
/-! DEFINITION. The 34 instructions of spec/opcode_table.json (spec/30_encoding.md R95), one constructor per row. -/

namespace Sys2Proof

/-- The instructions, in the order of the table. `x`, `y` select registers, `kk` is an 8-bit immediate, `n` a 4-bit count;
`nnn` is an address, held at the width of PC and I, of which an encoding admits 12 bits (`Instr.WellFormed`). The `y` of
`shr` and `shl` is a field of the word that the meaning ignores (R103); it is kept so that no bit of a word is lost. -/
inductive Instr where
  /-- 00E0, clear the display (R260). -/
  | cls
  /-- 00EE, return from subroutine (R151). -/
  | ret
  /-- 1nnn, jump (R152). -/
  | jp (nnn : Word)
  /-- 2nnn, call subroutine (R153). -/
  | call (nnn : Word)
  /-- 3xkk, skip if Vx = kk (R171). -/
  | seImm (x : Reg) (kk : Byte)
  /-- 4xkk, skip if Vx != kk (R172). -/
  | sneImm (x : Reg) (kk : Byte)
  /-- 5xy0, skip if Vx = Vy (R173). -/
  | seReg (x y : Reg)
  /-- 6xkk, load immediate (R190). -/
  | ldImm (x : Reg) (kk : Byte)
  /-- 7xkk, add immediate, no flag (R191). -/
  | addImm (x : Reg) (kk : Byte)
  /-- 8xy0, copy (R193). -/
  | ldReg (x y : Reg)
  /-- 8xy1, bitwise OR (R194). -/
  | orReg (x y : Reg)
  /-- 8xy2, bitwise AND (R195). -/
  | andReg (x y : Reg)
  /-- 8xy3, bitwise exclusive OR (R196). -/
  | xorReg (x y : Reg)
  /-- 8xy4, add with carry flag (R197). -/
  | addReg (x y : Reg)
  /-- 8xy5, subtract (R199). -/
  | subReg (x y : Reg)
  /-- 8xy6, shift right by one (R198). -/
  | shr (x y : Reg)
  /-- 8xy7, reverse subtract (R201). -/
  | subn (x y : Reg)
  /-- 8xyE, shift left by one (R200). -/
  | shl (x y : Reg)
  /-- 9xy0, skip if Vx != Vy (R174). -/
  | sneReg (x y : Reg)
  /-- Annn, set I (R231). -/
  | ldI (nnn : Word)
  /-- Bnnn, jump to nnn + V0 (R154). -/
  | jpV0 (nnn : Word)
  /-- Cxkk, random byte under mask (R202). -/
  | rnd (x : Reg) (kk : Byte)
  /-- Dxyn, draw a sprite of n rows (R261). -/
  | drw (x y : Reg) (n : Nibble)
  /-- Ex9E, skip if key Vx is pressed (R281). -/
  | skp (x : Reg)
  /-- ExA1, skip if key Vx is not pressed (R282). -/
  | sknp (x : Reg)
  /-- Fx07, read the delay timer (R283). -/
  | ldFromDt (x : Reg)
  /-- Fx0A, wait for a key (R284). -/
  | ldKey (x : Reg)
  /-- Fx15, set the delay timer (R285). -/
  | ldDt (x : Reg)
  /-- Fx18, set the sound timer (R286). -/
  | ldSt (x : Reg)
  /-- Fx1E, add Vx to I (R232). -/
  | addI (x : Reg)
  /-- Fx29, point I at a font glyph (R233). -/
  | ldFont (x : Reg)
  /-- Fx33, store the decimal digits of Vx (R234). -/
  | ldBcd (x : Reg)
  /-- Fx55, store V0 to Vx (R235). -/
  | storeRegs (x : Reg)
  /-- Fx65, load V0 to Vx (R236). -/
  | loadRegs (x : Reg)
deriving DecidableEq, Repr

end Sys2Proof
end

