-- ==== Sys2Proof/WellFormed.lean ====
section
/-! DEFINITION. Which instructions have an encoding: the address operand fits its 12-bit field (spec/30_encoding.md R92);
every other operand fits its field by its type. -/

namespace Sys2Proof

/-- The field `nnn = op[11:0]` holds an address 0 to 4095 (spec/30_encoding.md R92). -/
def fitsNnn (nnn : Word) : Bool := decide (nnn.toNat < 4096)

/-- An instruction some word encodes. The four forms with an address operand carry the one check; all arms are listed so
that a new instruction cannot slip past. -/
def Instr.wellFormed : Instr → Bool
  | .jp nnn => fitsNnn nnn
  | .call nnn => fitsNnn nnn
  | .ldI nnn => fitsNnn nnn
  | .jpV0 nnn => fitsNnn nnn
  | .cls | .ret | .seImm _ _ | .sneImm _ _ | .seReg _ _ | .ldImm _ _ | .addImm _ _ | .ldReg _ _ | .orReg _ _
  | .andReg _ _ | .xorReg _ _ | .addReg _ _ | .subReg _ _ | .shr _ _ | .subn _ _ | .shl _ _ | .sneReg _ _
  | .rnd _ _ | .drw _ _ _ | .skp _ | .sknp _ | .ldFromDt _ | .ldKey _ | .ldDt _ | .ldSt _ | .addI _ | .ldFont _
  | .ldBcd _ | .storeRegs _ | .loadRegs _ => true

end Sys2Proof
end

