-- ==== Sys2Proof/Decode.lean ====
section
/-! DEFINITION. Decoding (spec/30_encoding.md R94), total on every word and every list of bytes, rejecting by name; then the
encoder, from the same tables (R91, R92, R95). The bit patterns and field positions are the spec's, of which it marks all but
five patterns as general knowledge: PRESUMED, notes/assumptions/7.md. -/

namespace Sys2Proof

/-! ### Bits and bytes -/

/-- Two consecutive bytes of memory as an opcode: the byte at the lower address is bits 15 to 8 (spec/20_memory.md R65). -/
def opcodeOf (hi lo : Byte) : Word := hi ++ lo

/-- Bits 15 to 8 of an opcode, the byte at the lower address (spec/20_memory.md R65). -/
def highByte (op : Word) : Byte := op.extractLsb' 8 8

/-- Bits 7 to 0 of an opcode, the byte at the higher address (spec/20_memory.md R65). -/
def lowByte (op : Word) : Byte := op.extractLsb' 0 8

/-- The family nibble `op[15:12]` (spec/30_encoding.md R92). -/
def fieldFamily (op : Word) : BitVec 4 := op.extractLsb' 12 4

/-- The register selector `x = op[11:8]` (spec/30_encoding.md R92). -/
def fieldX (op : Word) : Reg := (op.extractLsb' 8 4).toFin

/-- The register selector `y = op[7:4]` (spec/30_encoding.md R92). -/
def fieldY (op : Word) : Reg := (op.extractLsb' 4 4).toFin

/-- The count or sub-operation nibble `n = op[3:0]` (spec/30_encoding.md R92). -/
def fieldN (op : Word) : BitVec 4 := op.extractLsb' 0 4

/-- The immediate or sub-operation byte `kk = op[7:0]` (spec/30_encoding.md R92). -/
def fieldKk (op : Word) : Byte := op.extractLsb' 0 8

/-- The address `nnn = op[11:0]`, zero-extended (spec/30_encoding.md R92, R93). -/
def fieldNnn (op : Word) : Word := (op.extractLsb' 0 12).setWidth 16

/-! ### Decoding -/

/-- Why no instruction was read. -/
inductive Reject where
  /-- The word matches no row of the opcode table (spec/30_encoding.md R101). -/
  | unknownOpcode (op : Word)
  /-- Fewer than the two bytes of an instruction are there (spec/30_encoding.md R90). -/
  | tooFewBytes
deriving DecidableEq, Repr

/-- Family 0, selected by all 12 low bits (spec/30_encoding.md R97). -/
def decodeFamily0 (op : Word) : Except Reject Instr :=
  if op = 0x00E0 then .ok .cls else if op = 0x00EE then .ok .ret else .error (.unknownOpcode op)

/-- Family 8, selected by the low nibble (spec/30_encoding.md R98). -/
def decodeFamily8 (op : Word) : Except Reject Instr :=
  let x := fieldX op
  let y := fieldY op
  match fieldN op with
  | 0x0 => .ok (.ldReg x y)
  | 0x1 => .ok (.orReg x y)
  | 0x2 => .ok (.andReg x y)
  | 0x3 => .ok (.xorReg x y)
  | 0x4 => .ok (.addReg x y)
  | 0x5 => .ok (.subReg x y)
  | 0x6 => .ok (.shr x y)
  | 0x7 => .ok (.subn x y)
  | 0xE => .ok (.shl x y)
  | _ => .error (.unknownOpcode op)

/-- Family E, selected by the low byte (spec/30_encoding.md R99). -/
def decodeFamilyE (op : Word) : Except Reject Instr :=
  match fieldKk op with
  | 0x9E => .ok (.skp (fieldX op))
  | 0xA1 => .ok (.sknp (fieldX op))
  | _ => .error (.unknownOpcode op)

/-- Family F, selected by the low byte (spec/30_encoding.md R100). -/
def decodeFamilyF (op : Word) : Except Reject Instr :=
  let x := fieldX op
  match fieldKk op with
  | 0x07 => .ok (.ldFromDt x)
  | 0x0A => .ok (.ldKey x)
  | 0x15 => .ok (.ldDt x)
  | 0x18 => .ok (.ldSt x)
  | 0x1E => .ok (.addI x)
  | 0x29 => .ok (.ldFont x)
  | 0x33 => .ok (.ldBcd x)
  | 0x55 => .ok (.storeRegs x)
  | 0x65 => .ok (.loadRegs x)
  | _ => .error (.unknownOpcode op)

/-- `Decode(op)` (spec/30_encoding.md R94). Families 5 and 9 require a low nibble of 0: the spec's own strict choice
(DESIGN CHOICE, R102, notes/assumptions/15.md). The last arm is the one nibble left, 0xF. -/
def decodeOp (op : Word) : Except Reject Instr :=
  match fieldFamily op with
  | 0x0 => decodeFamily0 op
  | 0x1 => .ok (.jp (fieldNnn op))
  | 0x2 => .ok (.call (fieldNnn op))
  | 0x3 => .ok (.seImm (fieldX op) (fieldKk op))
  | 0x4 => .ok (.sneImm (fieldX op) (fieldKk op))
  | 0x5 => if fieldN op = 0 then .ok (.seReg (fieldX op) (fieldY op)) else .error (.unknownOpcode op)
  | 0x6 => .ok (.ldImm (fieldX op) (fieldKk op))
  | 0x7 => .ok (.addImm (fieldX op) (fieldKk op))
  | 0x8 => decodeFamily8 op
  | 0x9 => if fieldN op = 0 then .ok (.sneReg (fieldX op) (fieldY op)) else .error (.unknownOpcode op)
  | 0xA => .ok (.ldI (fieldNnn op))
  | 0xB => .ok (.jpV0 (fieldNnn op))
  | 0xC => .ok (.rnd (fieldX op) (fieldKk op))
  | 0xD => .ok (.drw (fieldX op) (fieldY op) (fieldN op).toFin)
  | 0xE => decodeFamilyE op
  | _ => decodeFamilyF op

/-- Decode the instruction at the head of a list of bytes; the rest of the list comes back with it
(spec/30_encoding.md R90: two bytes, high byte first). -/
def decode : List Byte → Except Reject (Instr × List Byte)
  | hi :: lo :: rest => (decodeOp (opcodeOf hi lo)).map fun i => (i, rest)
  | _ => .error .tooFewBytes

/-- The instruction the decoder reads from the word `w` (bit 0 its least significant bit, `nbits` of it given, the rest 0),
laid out as the hardware stores it, high byte at the lower address. -/
def decodeTableWord (nbits w : Nat) : Option Instr :=
  let op : Word := BitVec.ofNat 16 (w % 2 ^ nbits)
  match decode [highByte op, lowByte op] with
  | .ok (i, _) => some i
  | .error _ => none

/-! ### Encoding -/

/-- Format NNN (spec/30_encoding.md R91); an address that does not fit loses its upper bits, and is not well-formed. -/
def packNnn (family : BitVec 4) (nnn : Word) : Word := family ++ nnn.extractLsb' 0 12

/-- Formats XKK and XB (spec/30_encoding.md R91). -/
def packXkk (family : BitVec 4) (x : Reg) (kk : Byte) : Word := family ++ (BitVec.ofFin x : BitVec 4) ++ kk

/-- Formats XY and XYN (spec/30_encoding.md R91). -/
def packXyn (family : BitVec 4) (x y : Reg) (n : BitVec 4) : Word :=
  family ++ (BitVec.ofFin x : BitVec 4) ++ (BitVec.ofFin y : BitVec 4) ++ n

/-- The word of an instruction (spec/30_encoding.md R91, R92, R95). -/
def encode : Instr → Word
  | .cls => 0x00E0
  | .ret => 0x00EE
  | .jp nnn => packNnn 0x1 nnn
  | .call nnn => packNnn 0x2 nnn
  | .seImm x kk => packXkk 0x3 x kk
  | .sneImm x kk => packXkk 0x4 x kk
  | .seReg x y => packXyn 0x5 x y 0x0
  | .ldImm x kk => packXkk 0x6 x kk
  | .addImm x kk => packXkk 0x7 x kk
  | .ldReg x y => packXyn 0x8 x y 0x0
  | .orReg x y => packXyn 0x8 x y 0x1
  | .andReg x y => packXyn 0x8 x y 0x2
  | .xorReg x y => packXyn 0x8 x y 0x3
  | .addReg x y => packXyn 0x8 x y 0x4
  | .subReg x y => packXyn 0x8 x y 0x5
  | .shr x y => packXyn 0x8 x y 0x6
  | .subn x y => packXyn 0x8 x y 0x7
  | .shl x y => packXyn 0x8 x y 0xE
  | .sneReg x y => packXyn 0x9 x y 0x0
  | .ldI nnn => packNnn 0xA nnn
  | .jpV0 nnn => packNnn 0xB nnn
  | .rnd x kk => packXkk 0xC x kk
  | .drw x y n => packXyn 0xD x y (BitVec.ofFin n)
  | .skp x => packXkk 0xE x 0x9E
  | .sknp x => packXkk 0xE x 0xA1
  | .ldFromDt x => packXkk 0xF x 0x07
  | .ldKey x => packXkk 0xF x 0x0A
  | .ldDt x => packXkk 0xF x 0x15
  | .ldSt x => packXkk 0xF x 0x18
  | .addI x => packXkk 0xF x 0x1E
  | .ldFont x => packXkk 0xF x 0x29
  | .ldBcd x => packXkk 0xF x 0x33
  | .storeRegs x => packXkk 0xF x 0x55
  | .loadRegs x => packXkk 0xF x 0x65

/-- The bytes of an instruction in memory order (spec/20_memory.md R65, R67). -/
def encodeBytes (i : Instr) : List Byte := [highByte (encode i), lowByte (encode i)]

/-! ### The opcode table -/

/-- The row of the opcode table an instruction belongs to, numbered from 0 in the table's order (spec/30_encoding.md R95). -/
def Instr.row : Instr → Fin 34
  | .cls => 0
  | .ret => 1
  | .jp _ => 2
  | .call _ => 3
  | .seImm _ _ => 4
  | .sneImm _ _ => 5
  | .seReg _ _ => 6
  | .ldImm _ _ => 7
  | .addImm _ _ => 8
  | .ldReg _ _ => 9
  | .orReg _ _ => 10
  | .andReg _ _ => 11
  | .xorReg _ _ => 12
  | .addReg _ _ => 13
  | .subReg _ _ => 14
  | .shr _ _ => 15
  | .subn _ _ => 16
  | .shl _ _ => 17
  | .sneReg _ _ => 18
  | .ldI _ => 19
  | .jpV0 _ => 20
  | .rnd _ _ => 21
  | .drw _ _ _ => 22
  | .skp _ => 23
  | .sknp _ => 24
  | .ldFromDt _ => 25
  | .ldKey _ => 26
  | .ldDt _ => 27
  | .ldSt _ => 28
  | .addI _ => 29
  | .ldFont _ => 30
  | .ldBcd _ => 31
  | .storeRegs _ => 32
  | .loadRegs _ => 33

/-- The `mask` column of the opcode table, row by row (spec/30_encoding.md R95). -/
def rowMask : Vector Word 34 :=
  #v[0xFFFF, 0xFFFF, 0xF000, 0xF000, 0xF000, 0xF000, 0xF00F, 0xF000, 0xF000,
     0xF00F, 0xF00F, 0xF00F, 0xF00F, 0xF00F, 0xF00F, 0xF00F, 0xF00F, 0xF00F, 0xF00F,
     0xF000, 0xF000, 0xF000, 0xF000,
     0xF0FF, 0xF0FF, 0xF0FF, 0xF0FF, 0xF0FF, 0xF0FF, 0xF0FF, 0xF0FF, 0xF0FF, 0xF0FF, 0xF0FF]

/-- The `match` column of the opcode table, row by row (spec/30_encoding.md R95). -/
def rowMatch : Vector Word 34 :=
  #v[0x00E0, 0x00EE, 0x1000, 0x2000, 0x3000, 0x4000, 0x5000, 0x6000, 0x7000,
     0x8000, 0x8001, 0x8002, 0x8003, 0x8004, 0x8005, 0x8006, 0x8007, 0x800E, 0x9000,
     0xA000, 0xB000, 0xC000, 0xD000,
     0xE09E, 0xE0A1, 0xF007, 0xF00A, 0xF015, 0xF018, 0xF01E, 0xF029, 0xF033, 0xF055, 0xF065]

/-- An opcode selects a row when `op and mask = match` (spec/30_encoding.md R95). -/
def selectsRow (op : Word) (r : Fin 34) : Bool := op &&& rowMask.get r == rowMatch.get r

end Sys2Proof
end

