-- ==== Sys2Proof/Config.lean ====
section
/-! DEFINITION. The fixed sizes of the hardware (spec/00_scope.md R8) and its one free value, the random byte. -/

namespace Sys2Proof.Config

/-- MEM_SIZE: bytes of addressable memory, addresses 0x000 to 0xFFF. -/
abbrev memSize : Nat := 4096

/-- FONT_BYTES: 16 glyphs of 5 bytes at addresses 0x000 to 0x04F. -/
abbrev fontBytes : Nat := 80

/-- GLYPH_BYTES: bytes of one glyph. -/
abbrev glyphBytes : Nat := 5

/-- PROG_BASE: where programs are loaded and where PC starts. -/
abbrev progBase : Nat := 0x200

/-- MAX_ROM: the largest program, 4096 - 0x200 bytes. -/
abbrev maxRom : Nat := 3584

/-- FB_W: columns of the frame buffer. -/
abbrev fbWidth : Nat := 64

/-- FB_H: rows of the frame buffer. -/
abbrev fbHeight : Nat := 32

/-- RND, the random byte of the k-th draw (spec/43_alu.md R202: any of the 256 values at every execution, no relation
between executions). A FREE VALUE: no body, so nothing can be proved of it. DESIGN CHOICE, notes/assumptions/1.md; safe. -/
opaque rndByte : Nat → Byte

end Sys2Proof.Config
end

