-- ==== Sys2Proof/Machine/State.lean ====
section
/-! DEFINITION. Everything the spec gives the machine (spec/10_state.md R20 to R42), as plain data, and the state after
`reset()` (R43). -/

namespace Sys2Proof.Machine

/-- The fatal kinds of a step (spec/60_exceptions.md R301 to R306), the contents of the FAULT latch. The spec gives a fatal
step a state (R305), so the model takes it as a NEXT state and no step answers `Host.Outcome.fault` (notes/assumptions/5.md;
safe). -/
inductive Fault where
  /-- Raised by a fetch with PC at 4095 or more, and by Dxyn, Fx33, Fx55, Fx65 whose last address is above 4095 (R302). -/
  | addressOutOfRange
  /-- Raised by CALL with SP = 15 (R303). -/
  | stackOverflow
  /-- Raised by RET with SP = 0 (R304). -/
  | stackUnderflow
  /-- Raised by Ex9E and ExA1 with Vx above 15 (R306). -/
  | keyOutOfRange
deriving DecidableEq, Repr

/-- Why a step would have no meaning. -/
inductive Refusal where
  /-- An instruction with no meaning yet, rejected by name in `exec`'s arm. No arm of this model uses it. Safe. -/
  | notModelled (mnemonic : String)
deriving DecidableEq, Repr

/-- The step result, "a status output valid when the step completes" (spec/10_state.md R41), with the information of
spec/60_exceptions.md R301. -/
inductive StepResult where
  /-- The step completed and ran one of the 34 instructions (spec/40_cycle.md R132). -/
  | ok
  /-- `Warning(UnknownOpcode, op)`, with the address P it stood at (spec/40_cycle.md R131). -/
  | unknownOpcode (op p : Word)
  /-- `Fatal(kind)`: of the step that raised it with its information (an address, P, or Vx), of a later step at the set
  latch with the kind alone (DESIGN CHOICE, notes/assumptions/4.md). -/
  | fatal (kind : Fault) (info : Option Nat)
deriving DecidableEq, Repr

/-- MEM as the cells that differ from its content after reset: addresses rising, no cell equal to what an unlisted address
reads as (`Memory.wf`, `Memory.unlisted` in Machine/Ops.lean). -/
abbrev Memory := List Host.Cell

/-- FB, "64×32 boolean grid, row-major": 32 rows of 64 columns (spec/10_state.md R34). -/
abbrev FrameBuffer := Vector (Vector Bool 64) 32

/-- The whole state (spec/10_state.md R20). -/
structure State where
  /-- MEM, 4096 bytes (R21). -/
  mem : Memory
  /-- V0 to VF (R25). -/
  v : Vector Byte 16
  /-- I, the address register (R28). -/
  i : Word
  /-- PC, the program counter (R29). -/
  pc : Word
  /-- STACK, 16 slots (R31). -/
  stack : Vector Word 16
  /-- SP, the slot of the most recent CALL, or 0 (R32). -/
  sp : BitVec 4
  /-- DT, the delay timer (R33). -/
  dt : Byte
  /-- ST, the sound timer (R33). -/
  st : Byte
  /-- FB, the frame buffer (R34). -/
  fb : FrameBuffer
  /-- KEYS, the input port the host writes between steps (R36; DESIGN CHOICE, notes/assumptions/3.md). -/
  keys : Vector Bool 16
  /-- REDRAW, "redraw requested" (R37). -/
  redraw : Bool
  /-- TONE, "tone requested" (R38). -/
  tone : Bool
  /-- FAULT, the fault latch (R40). -/
  fault : Option Fault
  /-- The step result, an output port (R41, R42; notes/assumptions/4.md). -/
  result : StepResult
  /-- THE MODEL'S OWN, not the spec's: how many random bytes were drawn, so that each draw is a fresh free value
  (notes/assumptions/1.md and 2.md). -/
  rndDraws : Nat
deriving DecidableEq, Repr

/-- The state after `reset()` and at power-on (spec/10_state.md R43, spec/70_reset_and_hazards.md R340, R341). No cell is
listed, so memory reads as the font and zeros. I, FB, the flags and KEYS: the spec's decision D16 (notes/assumptions/9.md).
`result` and `rndDraws`: DESIGN CHOICE, notes/assumptions/4.md and 2.md. -/
def State.reset : State where
  mem := []
  v := Vector.replicate 16 0
  i := 0
  pc := 0x200
  stack := Vector.replicate 16 0
  sp := 0
  dt := 0
  st := 0
  fb := Vector.replicate 32 (Vector.replicate 64 false)
  keys := Vector.replicate 16 false
  redraw := false
  tone := false
  fault := none
  result := .ok
  rndDraws := 0

end Sys2Proof.Machine
end

