-- ==== Sys2Proof/Machine/Ops.lean ====
section
/-! DEFINITION. The named operations over memory, registers, stack, timers, flags and the fault latch. Every meaning is
written over these. -/

namespace Sys2Proof.Machine

/-- What an instruction or a step answers. -/
abbrev Answer := Host.Outcome State Fault Refusal

/-! ### Memory -/

/-- What an unlisted address reads as: the content of MEM after reset, the font at 0x000 to 0x04F and 0x00 elsewhere
(spec/10_state.md R43, spec/70_reset_and_hazards.md R340; notes/assumptions/10.md). -/
def Memory.unlisted (a : Nat) : Byte := font.getD a 0

/-- The byte at an address (spec/20_memory.md R63, for an address in range; who calls it checks the range first, R66). -/
def Memory.read : Memory → Nat → Byte
  | [], a => Memory.unlisted a
  | c :: m, a => if c.1 = a then c.2 else Memory.read m a

/-- Put a cell in front of memory, unless it holds what its address reads as unlisted. -/
def Memory.cons (a : Nat) (b : Byte) (m : Memory) : Memory := if b = Memory.unlisted a then m else (a, b) :: m

/-- Store one byte (spec/20_memory.md R64): exactly one address changes, and the canonical form is kept. -/
def Memory.write : Memory → Nat → Byte → Memory
  | [], a, b => Memory.cons a b []
  | c :: m, a, b =>
    if a < c.1 then Memory.cons a b (c :: m)
    else if a = c.1 then Memory.cons a b m
    else c :: Memory.write m a b

/-- Store bytes at ascending addresses from `a` (spec/20_memory.md R67). -/
def Memory.writeBytes : Memory → Nat → List Byte → Memory
  | m, _, [] => m
  | m, a, b :: bs => Memory.writeBytes (m.write a b) (a + 1) bs

/-- Every listed address is at least `lo`, addresses rise, all are below 4096, and no cell holds what its address reads as
unlisted. -/
def Memory.wfFrom : Nat → Memory → Bool
  | _, [] => true
  | lo, c :: m =>
    decide (lo ≤ c.1) && decide (c.1 < Config.memSize) && decide (c.2 ≠ Memory.unlisted c.1) && Memory.wfFrom (c.1 + 1) m

/-- The canonical form: equal memories are equal lists (notes/assumptions/10.md). -/
def Memory.wf (m : Memory) : Bool := Memory.wfFrom 0 m

/-- `MEM[a]` of a state. -/
def State.byteAt (s : State) (a : Nat) : Byte := s.mem.read a

/-- `MemRead(PC, 2)` (spec/20_memory.md R65, spec/40_cycle.md R123): the two bytes at PC, big-endian, or nothing if the second
would lie past address 4095. No alignment check (R69). -/
def State.fetch (s : State) : Option Word :=
  if s.pc.toNat + 1 < Config.memSize then some (opcodeOf (s.byteAt s.pc.toNat) (s.byteAt (s.pc.toNat + 1))) else none

/-! ### Registers and fields -/

/-- `V[r]`; no register is hardwired (spec/10_state.md R25). -/
def State.reg (s : State) (r : Reg) : Byte := s.v.get r

/-- `V[r] <- b`. -/
def State.setReg (s : State) (r : Reg) (b : Byte) : State := { s with v := s.v.set r.val b r.isLt }

/-- Write all sixteen registers. -/
def State.setRegs (s : State) (v : Vector Byte 16) : State := { s with v := v }

/-- `I <- w`; no mask (spec/10_state.md R28). -/
def State.setI (s : State) (w : Word) : State := { s with i := w }

/-- `PC <- w`; no mask, no alignment (spec/41_control_flow.md R150). -/
def State.setPc (s : State) (w : Word) : State := { s with pc := w }

/-- `next`: PC <- P + 2, P being PC, which fetch does not change (spec/40_cycle.md R126). -/
def State.advance (s : State) : State := { s with pc := s.pc + 2 }

/-- `skip`: PC <- P + 4 (spec/40_cycle.md R126). -/
def State.skip (s : State) : State := { s with pc := s.pc + 4 }

/-- `if c then skip else next` (spec/42_skips.md R170). -/
def State.skipIf (s : State) (c : Bool) : State := if c then s.skip else s.advance

/-- Replace memory. -/
def State.setMem (s : State) (m : Memory) : State := { s with mem := m }

/-- Replace the frame buffer. -/
def State.setFb (s : State) (fb : FrameBuffer) : State := { s with fb := fb }

/-- `REDRAW <- true` (spec/10_state.md R37). -/
def State.requestRedraw (s : State) : State := { s with redraw := true }

/-- `DT <- b`. -/
def State.setDt (s : State) (b : Byte) : State := { s with dt := b }

/-- `ST <- b`. -/
def State.setSt (s : State) (b : Byte) : State := { s with st := b }

/-- The next random byte (spec/43_alu.md R202). -/
def State.rnd (s : State) : Byte := Config.rndByte s.rndDraws

/-- A random byte has been drawn: the next one is another free value. -/
def State.countDraw (s : State) : State := { s with rndDraws := s.rndDraws + 1 }

/-! ### The call stack -/

/-- `STACK[k]`. -/
def State.slot (s : State) (k : BitVec 4) : Word := s.stack.get k.toFin

/-- `SP <- SP + 1; STACK[SP] <- P; PC <- target`: the address of the CALL itself is saved (spec/41_control_flow.md R153). -/
def State.pushCall (s : State) (target : Word) : State :=
  { s with sp := s.sp + 1, stack := s.stack.set (s.sp + 1).toNat s.pc (s.sp + 1).isLt, pc := target }

/-- `PC <- STACK[SP] + 2; SP <- SP - 1`; the slot keeps its value (spec/41_control_flow.md R151, spec/10_state.md R31). -/
def State.popCall (s : State) : State := { s with pc := s.slot s.sp + 2, sp := s.sp - 1 }

/-! ### Fatal outcomes, the step result, the flags, the timers -/

/-- `raise kind(info)`, the nearest thing the hardware has to taking an exception (spec/60_exceptions.md R305): nothing of the
execute phase is written, PC keeps P, FAULT takes the kind, the result is `Fatal(kind)` with its information. REDRAW and TONE
are false already (phase 1), and the step does not reach the timer decay. There is no return from it but `reset()` (R313).
The spec's own decision D1: DESIGN CHOICE, notes/assumptions/5.md. -/
def State.raise (kind : Fault) (info : Nat) (s : State) : State :=
  { s with fault := some kind, result := .fatal kind (some info) }

/-- Put out a step result (spec/10_state.md R41). -/
def State.report (s : State) (r : StepResult) : State := { s with result := r }

/-- Phase 1: "Reset both cycle flags to false." (spec/40_cycle.md R122) -/
def State.clearFlags (s : State) : State := { s with redraw := false, tone := false }

/-- A timer loses 1 if it is above 0 and "never underflow[s] below 0" (spec/10_state.md R33). -/
def tick (t : Byte) : Byte := if t = 0 then 0 else t - 1

/-- Phase 5: both timers decay, and TONE is set if ST was above 0 before its decrement (spec/40_cycle.md R129). -/
def State.decay (s : State) : State :=
  { s with dt := tick s.dt, st := tick s.st, tone := s.tone || s.st != 0 }

/-! ### The host's and the checker's ways in -/

/-- Store an opcode at an address, high byte first (spec/20_memory.md R65). -/
def Memory.writeOpcode (m : Memory) (a : Nat) (op : Word) : Memory := m.writeBytes a [highByte op, lowByte op]

/-- The state with an opcode where the next step fetches: its two bytes at PC and PC + 1. A set fault latch is cleared, since
a faulted machine fetches nothing; at a PC of 4095 or more, from which no fetch can be made, memory is left alone
(notes/assumptions/11.md). -/
def State.placeOpcode (s : State) (op : Word) : State :=
  if s.pc.toNat + 1 < Config.memSize then { s with fault := none, mem := s.mem.writeOpcode s.pc.toNat op } else s

end Sys2Proof.Machine
end

