-- ==== Sys2Proof/Machine/Flags.lean ====
section
/-! DEFINITION. The flag computations: VF as carry, no-borrow, shifted-out bit and collision flag (spec/10_state.md R27,
spec/43_alu.md R203), the 8-bit results beside them, and the order in which flag and result are written (R192). -/

namespace Sys2Proof.Machine

/-- A flag write sets VF to 0x00 or 0x01 (spec/10_state.md R27). -/
def flagByte (c : Bool) : Byte := if c then 1 else 0

/-- `(a + b) mod 256` (spec/43_alu.md R203). -/
def sum8 (a b : Byte) : Byte := BitVec.ofNat 8 (a.toNat + b.toNat)

/-- The carry: `a + b > 255` (spec/43_alu.md R197). -/
def carry (a b : Byte) : Bool := decide (a.toNat + b.toNat > 255)

/-- `(a - b) mod 256`, that is `a - b + 256` when `a < b` (spec/43_alu.md R203). -/
def diff8 (a b : Byte) : Byte := BitVec.ofInt 8 ((a.toNat : Int) - b.toNat)

/-- The no-borrow flag: the minuend is STRICTLY greater (spec/43_alu.md R199, R201, D32; notes/assumptions/26.md). -/
def noBorrow (a b : Byte) : Bool := decide (a.toNat > b.toNat)

/-- `a >> 1`, logical (spec/43_alu.md R198). -/
def shiftRight (a : Byte) : Byte := BitVec.ofNat 8 (a.toNat / 2)

/-- Bit 0, the bit a right shift puts out (spec/43_alu.md R198). -/
def lowBit (a : Byte) : Bool := a.getLsbD 0

/-- `(a << 1) mod 256` (spec/43_alu.md R200). -/
def shiftLeft (a : Byte) : Byte := BitVec.ofNat 8 (2 * a.toNat)

/-- Bit 7, the bit a left shift puts out (spec/43_alu.md R200). -/
def highBit (a : Byte) : Bool := a.getLsbD 7

/-- Write the flag to VF first and the result to Vx last, so that with x = 0xF the result wins (spec/43_alu.md R192, the
spec's decision D9: DESIGN CHOICE, notes/assumptions/13.md). Both are computed before from latched operands. -/
def State.setFlagged (s : State) (x : Reg) (flag : Bool) (result : Byte) : State :=
  (s.setReg Reg.vf (flagByte flag)).setReg x result

end Sys2Proof.Machine
end

