-- ==== Sys2Proof/Machine/Operands.lean ====
section
/-! DEFINITION. The operand forms that are more than a register or an immediate: memory at I with its bounds check
(spec/20_memory.md R66, spec/44_index_memory.md R230), a key number, a pressed key, a glyph address, decimal digits, a run of
registers (spec/30_encoding.md R105). -/

namespace Sys2Proof.Machine

/-- The bounds check of an access whose last address is `last`, on unbounded integers, made before anything is read or
written: past 4095 the instruction raises AddressOutOfRange(last) (spec/20_memory.md R66, the spec's decision D5: DESIGN
CHOICE, notes/assumptions/20.md). -/
def withinMemory (last : Nat) (s : State) (body : State → Answer) : Answer :=
  if last < Config.memSize then body s else .next (s.raise .addressOutOfRange last)

/-- The whole 8-bit Vx as a key number; above 15 the instruction raises KeyOutOfRange(Vx) (spec/46_keypad_timers.md R281, the
spec's decision D17: DESIGN CHOICE, notes/assumptions/17.md). -/
def withKey (x : Reg) (s : State) (body : Bool → State → Answer) : Answer :=
  if h : (s.reg x).toNat < 16 then body (s.keys.get ⟨(s.reg x).toNat, h⟩) s
  else .next (s.raise .keyOutOfRange (s.reg x).toNat)

/-- The least k with `KEYS[k] = true` (spec/46_keypad_timers.md R284). -/
def State.lowestKey (s : State) : Option Nat := s.keys.toList.findIdx? id

/-- `Vx * 5`, the whole 8-bit digit, unmasked (spec/44_index_memory.md R233). -/
def glyphAddress (digit : Byte) : Word := BitVec.ofNat 16 (digit.toNat * Config.glyphBytes)

/-- Hundreds, tens, ones (spec/44_index_memory.md R234). -/
def bcdDigits (b : Byte) : List Byte :=
  [BitVec.ofNat 8 (b.toNat / 100), BitVec.ofNat 8 (b.toNat / 10 % 10), BitVec.ofNat 8 (b.toNat % 10)]

/-- V0 to Vx, ascending (spec/44_index_memory.md R235). -/
def State.regsUpTo (s : State) (x : Reg) : List Byte := s.v.toList.take (x.val + 1)

/-- The registers after V0 to V(k-1) took the bytes at I upward, in ascending order (spec/44_index_memory.md R236, the loop). -/
def State.loadedBelow (s : State) : (k : Nat) → k ≤ 16 → Vector Byte 16
  | 0, _ => s.v
  | k + 1, h => (s.loadedBelow k (Nat.le_of_succ_le h)).set k (s.byteAt (s.i.toNat + k)) h

/-- The registers after V0 to Vx took the bytes at I upward; those above Vx keep theirs (spec/44_index_memory.md R236). -/
def State.regsLoaded (s : State) (x : Reg) : Vector Byte 16 := s.loadedBelow (x.val + 1) x.isLt

end Sys2Proof.Machine
end

