-- ==== Sys2Proof/Machine/Alu.lean ====
section
/-! DEFINITION. Register loads, arithmetic, logic, shifts and random (spec/43_alu.md R190 to R203). The flag-writing forms
latch their operands, then write VF, then Vx (R192, `State.setFlagged`). Vx is destination and first operand, Vy second, in
all of family 8 (R193 to R196, R201, the spec's decision D34: PRESUMED, notes/assumptions/27.md). -/

namespace Sys2Proof.Machine

/-- LD Vx, kk (R190). -/
def execLdImm (x : Reg) (kk : Byte) (s : State) : Answer := .next (s.setReg x kk).advance

/-- ADD Vx, kk (R191): wraps, and VF is not written as a flag (the spec's decision D10, notes/assumptions/27.md). -/
def execAddImm (x : Reg) (kk : Byte) (s : State) : Answer := .next (s.setReg x (sum8 (s.reg x) kk)).advance

/-- LD Vx, Vy (R193). -/
def execLdReg (x y : Reg) (s : State) : Answer := .next (s.setReg x (s.reg y)).advance

/-- OR Vx, Vy (R194). -/
def execOrReg (x y : Reg) (s : State) : Answer := .next (s.setReg x (s.reg x ||| s.reg y)).advance

/-- AND Vx, Vy (R195). -/
def execAndReg (x y : Reg) (s : State) : Answer := .next (s.setReg x (s.reg x &&& s.reg y)).advance

/-- XOR Vx, Vy (R196). -/
def execXorReg (x y : Reg) (s : State) : Answer := .next (s.setReg x (s.reg x ^^^ s.reg y)).advance

/-- ADD Vx, Vy (R197). -/
def execAddReg (x y : Reg) (s : State) : Answer :=
  .next (s.setFlagged x (carry (s.reg x) (s.reg y)) (sum8 (s.reg x) (s.reg y))).advance

/-- SUB Vx, Vy (R199). -/
def execSubReg (x y : Reg) (s : State) : Answer :=
  .next (s.setFlagged x (noBorrow (s.reg x) (s.reg y)) (diff8 (s.reg x) (s.reg y))).advance

/-- SHR Vx (R198); y is ignored. -/
def execShr (x _y : Reg) (s : State) : Answer :=
  .next (s.setFlagged x (lowBit (s.reg x)) (shiftRight (s.reg x))).advance

/-- SUBN Vx, Vy (R201). -/
def execSubn (x y : Reg) (s : State) : Answer :=
  .next (s.setFlagged x (noBorrow (s.reg y) (s.reg x)) (diff8 (s.reg y) (s.reg x))).advance

/-- SHL Vx (R200); y is ignored. -/
def execShl (x _y : Reg) (s : State) : Answer :=
  .next (s.setFlagged x (highBit (s.reg x)) (shiftLeft (s.reg x))).advance

/-- RND Vx, kk with the random byte given (R202). -/
def rndWith (rnd : Byte) (x : Reg) (kk : Byte) (s : State) : State := ((s.setReg x (rnd &&& kk)).countDraw).advance

/-- RND Vx, kk (R202): the byte is a free value, a fresh one at every execution (notes/assumptions/1.md). -/
def execRnd (x : Reg) (kk : Byte) (s : State) : Answer := .next (rndWith s.rnd x kk s)

end Sys2Proof.Machine
end

