-- ==== Sys2Proof/Machine/Control.lean ====
section
/-! DEFINITION. Control transfer: RET, JP, CALL, JP V0 (spec/41_control_flow.md R150 to R154). -/

namespace Sys2Proof.Machine

/-- RET (R151). With no call outstanding: StackUnderflow(P) (the spec's decision D3: DESIGN CHOICE, notes/assumptions/18.md). -/
def execRet (s : State) : Answer :=
  if s.sp = 0 then .next (s.raise .stackUnderflow s.pc.toNat) else .next s.popCall

/-- JP nnn (R152). -/
def execJp (nnn : Word) (s : State) : Answer := .next (s.setPc nnn)

/-- CALL nnn (R153). With SP = 15: StackOverflow(P) (the spec's decision D3: DESIGN CHOICE, notes/assumptions/18.md). -/
def execCall (nnn : Word) (s : State) : Answer :=
  if s.sp = 15 then .next (s.raise .stackOverflow s.pc.toNat) else .next (s.pushCall nnn)

/-- JP V0, nnn (R154): the sum is not reduced modulo 4096 (the spec's decision D29, notes/assumptions/21.md). -/
def execJpV0 (nnn : Word) (s : State) : Answer := .next (s.setPc (nnn + (s.reg 0).setWidth 16))

end Sys2Proof.Machine
end

