-- ==== Sys2Proof/Machine/Display.lean ====
section
/-! DEFINITION. Display: CLS, DRW (spec/45_display.md R260 to R262) and the frame-buffer operations under them
(spec/10_state.md R34). -/

namespace Sys2Proof.Machine

/-- All 2048 cells false. -/
def FrameBuffer.blank : FrameBuffer := Vector.replicate 32 (Vector.replicate 64 false)

/-- `FB[row][col]`; false outside the grid. -/
def FrameBuffer.pixel (fb : FrameBuffer) (row col : Nat) : Bool :=
  if h : row < 32 ∧ col < 64 then (fb[row]'h.1)[col]'h.2 else false

/-- `FB[row][col] <- not FB[row][col]`; outside the grid nothing changes. -/
def FrameBuffer.flip (fb : FrameBuffer) (row col : Nat) : FrameBuffer :=
  if h : row < 32 ∧ col < 64 then fb.set row ((fb[row]'h.1).set col (!(fb[row]'h.1)[col]'h.2) h.2) h.1 else fb

/-- One sprite pixel at (`px`, `py`): a 1 bit inside the grid flips its cell, and a cell that was set is a hit; a pixel past
the right or bottom edge is clipped (R261, R262 item 2, the spec's decision D6: DESIGN CHOICE, notes/assumptions/12.md). -/
def drawPixel (bit : Bool) (py px : Nat) (p : FrameBuffer × Bool) : FrameBuffer × Bool :=
  if bit && decide (px < Config.fbWidth) && decide (py < Config.fbHeight) then
    (p.1.flip py px, p.2 || p.1.pixel py px)
  else p

/-- The bit of a sprite byte at a column: bit 7 is the leftmost (R262 item 1, the spec's decision D7: PRESUMED,
notes/assumptions/8.md). -/
def spriteBit (b : Byte) (col : Nat) : Bool := b.getLsbD (7 - col)

/-- The first `k` columns of one sprite byte, left to right (R261, the inner loop). -/
def drawColumns (b : Byte) (py x0 : Nat) : Nat → FrameBuffer × Bool → FrameBuffer × Bool
  | 0, p => p
  | k + 1, p => drawPixel (spriteBit b k) py (x0 + k) (drawColumns b py x0 k p)

/-- The first `k` rows of the sprite at address `a`, top to bottom (R261, the outer loop). -/
def drawRows (m : Memory) (a x0 y0 : Nat) : Nat → FrameBuffer × Bool → FrameBuffer × Bool
  | 0, p => p
  | k + 1, p => drawColumns (m.read (a + k)) (y0 + k) x0 8 (drawRows m a x0 y0 k p)

/-- The frame buffer after a sprite of `n` rows and whether a set pixel was cleared; the start wraps, `Vx mod 64` and
`Vy mod 32`, with Vx and Vy read before VF is written (R261, R262 item 3). -/
def State.drawn (s : State) (x y : Reg) (n : Nat) : FrameBuffer × Bool :=
  drawRows s.mem s.i.toNat ((s.reg x).toNat % Config.fbWidth) ((s.reg y).toNat % Config.fbHeight) n (s.fb, false)

/-- The effect of DRW once its bounds hold: FB, then VF written last, then REDRAW (R261). -/
def State.draw (s : State) (x y : Reg) (n : Nat) : State :=
  (((s.setFb (s.drawn x y n).1).setReg Reg.vf (flagByte (s.drawn x y n).2)).requestRedraw).advance

/-- CLS (R260). REDRAW is set: the spec's decision D15 (DESIGN CHOICE, notes/assumptions/16.md). -/
def execCls (s : State) : Answer := .next ((s.setFb FrameBuffer.blank).requestRedraw).advance

/-- DRW Vx, Vy, n (R261). The check covers all n bytes, clipped rows too; n = 0 reads nothing and makes no check (R262 item 4). -/
def execDrw (x y : Reg) (n : Nibble) (s : State) : Answer :=
  if n.val = 0 then .next (s.draw x y 0)
  else withinMemory (s.i.toNat + n.val - 1) s fun s => .next (s.draw x y n.val)

end Sys2Proof.Machine
end

