-- ==== Sys2Proof/Machine/IndexMemory.lean ====
section
/-! DEFINITION. The address register and memory transfers (spec/44_index_memory.md R230 to R236). I is unchanged by Fx33, Fx55
and Fx65 (R230, the spec's decision D21: DESIGN CHOICE, notes/assumptions/23.md). -/

namespace Sys2Proof.Machine

/-- LD I, nnn (R231). -/
def execLdI (nnn : Word) (s : State) : Answer := .next (s.setI nnn).advance

/-- ADD I, Vx (R232): modulo 65536, no flag, no 12-bit mask (the spec's decision D4: DESIGN CHOICE, notes/assumptions/19.md). -/
def execAddI (x : Reg) (s : State) : Answer :=
  .next (s.setI (BitVec.ofNat 16 (s.i.toNat + (s.reg x).toNat))).advance

/-- LD F, Vx (R233). -/
def execLdFont (x : Reg) (s : State) : Answer := .next (s.setI (glyphAddress (s.reg x))).advance

/-- LD B, Vx (R234). -/
def execLdBcd (x : Reg) (s : State) : Answer :=
  withinMemory (s.i.toNat + 2) s fun s =>
    .next (s.setMem (s.mem.writeBytes s.i.toNat (bcdDigits (s.reg x)))).advance

/-- LD [I], Vx (R235). -/
def execStoreRegs (x : Reg) (s : State) : Answer :=
  withinMemory (s.i.toNat + x.val) s fun s =>
    .next (s.setMem (s.mem.writeBytes s.i.toNat (s.regsUpTo x))).advance

/-- LD Vx, [I] (R236). -/
def execLoadRegs (x : Reg) (s : State) : Answer :=
  withinMemory (s.i.toNat + x.val) s fun s => .next (s.setRegs (s.regsLoaded x)).advance

end Sys2Proof.Machine
end

