-- ==== Sys2Proof/Machine/KeypadTimers.lean ====
section
/-! DEFINITION. Keypad and timer instructions (spec/46_keypad_timers.md R280 to R286). KEYS is the sample of the step and is
only read (R280, the spec's decision D22: notes/assumptions/24.md). -/

namespace Sys2Proof.Machine

/-- SKP Vx (R281). -/
def execSkp (x : Reg) (s : State) : Answer := withKey x s fun pressed s => .next (s.skipIf pressed)

/-- SKNP Vx (R282). -/
def execSknp (x : Reg) (s : State) : Answer := withKey x s fun pressed s => .next (s.skipIf (!pressed))

/-- LD Vx, DT (R283): DT before this step's decay. -/
def execLdFromDt (x : Reg) (s : State) : Answer := .next (s.setReg x s.dt).advance

/-- LD Vx, K (R284): the lowest key down, or, with none down, nothing at all: PC stays P. -/
def execLdKey (x : Reg) (s : State) : Answer :=
  match s.lowestKey with
  | some k => .next (s.setReg x (BitVec.ofNat 8 k)).advance
  | none => .next s

/-- LD DT, Vx (R285). -/
def execLdDt (x : Reg) (s : State) : Answer := .next (s.setDt (s.reg x)).advance

/-- LD ST, Vx (R286); TONE comes from the decay phase of the same step. -/
def execLdSt (x : Reg) (s : State) : Answer := .next (s.setSt (s.reg x)).advance

end Sys2Proof.Machine
end

