-- ==== Sys2Proof/Machine/Cycle.lean ====
section
/-! DEFINITION. The step of spec/40_cycle.md R120, phase by phase; Step.lean calls it. -/

namespace Sys2Proof.Machine

/-- The end of a step whose execute phase answered `a`: if it raised, the timers do not decay and the result stands
(spec/40_cycle.md R128); else phase 5 (R129) and the result Ok (R132). -/
def finishStep (a : Answer) : Answer :=
  match a with
  | .next t => if t.fault.isSome then .next t else .next (t.decay.report .ok)
  | .fault k => .fault k
  | .refused r => .refused r

/-- The step on an unknown opcode: execute does nothing, PC keeps its value, the timers decay, the result is a warning and
FAULT is not set (spec/40_cycle.md R131, the spec's decision D11: DESIGN CHOICE, notes/assumptions/14.md). -/
def unknownStep (op : Word) (s : State) : Answer := .next (s.decay.report (.unknownOpcode op s.pc))

/-- Phases 3 to 6 on a fetched opcode (spec/40_cycle.md R120). -/
def runOpcode (op : Word) (s : State) : Answer :=
  match decodeOp op with
  | .ok i => finishStep (exec i s)
  | .error _ => unknownStep op s

/-- Phases 2 to 6, after the flag reset; a fetch past the end raises AddressOutOfRange(PC) (spec/40_cycle.md R123). -/
def runFetched (s : State) : Answer :=
  match s.fetch with
  | some op => runOpcode op s
  | none => .next (s.raise .addressOutOfRange s.pc.toNat)

/-- The step (spec/40_cycle.md R120). Phase 0: at a set fault latch nothing changes, not even the cycle flags, and the result
is `Fatal(FAULT)` again (R121). Phase 1: flag reset (R122). -/
def cycle (s : State) : Answer :=
  match s.fault with
  | some k => .next (s.report (.fatal k none))
  | none => runFetched s.clearFlags

end Sys2Proof.Machine
end

