-- ==== Sys2Proof/Machine/Step.lean ====
section
/-! DEFINITION. One step of the machine, and the state with a word placed where the next step fetches. -/

namespace Sys2Proof.Machine

/-- One step (spec/40_cycle.md R120). -/
def step (s : State) : Host.Outcome State Fault Refusal := Sys2Proof.Machine.cycle s

/-- `s` with the instruction word `w` (bit 0 its least significant bit, the bits from `nbits` up 0) stored at PC, high byte
first, so that the next step fetches it (notes/assumptions/11.md). -/
def State.withFetchWord (s : State) (nbits w : Nat) : State := s.placeOpcode (BitVec.ofNat 16 (w % 2 ^ nbits))

end Sys2Proof.Machine
end

