-- ==== Sys2Proof/Machine/HostOps.lean ====
section
/-! DEFINITION. What the host can do to the machine between steps (spec/70_reset_and_hazards.md R340 to R351,
spec/10_state.md R42). Reads (FB, REDRAW, TONE, any state) are the fields of State. -/

namespace Sys2Proof.Machine

/-- The answer of `load_program` (spec/60_exceptions.md R301, R308). -/
inductive LoadResult where
  /-- The image was copied. -/
  | ok
  /-- The image has more than 3584 bytes; the length is carried. Nothing was changed. -/
  | romTooLarge (len : Nat)
deriving DecidableEq, Repr

/-- `load_program(bytes)` (R345): all or nothing, and only `MEM[0x200 .. 0x200+len-1]` changes (R346). -/
def loadProgram (bytes : List Byte) (s : State) : LoadResult × State :=
  if bytes.length > Config.maxRom then (.romTooLarge bytes.length, s)
  else (.ok, s.setMem (s.mem.writeBytes Config.progBase bytes))

/-- `reset()` (R340): every piece of the spec's state takes its reset value, FAULT included (R342). The model's own count of
drawn random bytes goes on, so that bytes drawn after a reset are not those drawn before (notes/assumptions/2.md). -/
def hostReset (s : State) : State := { State.reset with rndDraws := s.rndDraws }

/-- The key update: the host overwrites KEYS between steps (spec/10_state.md R36, R350). -/
def updateKeys (keys : Vector Bool 16) (s : State) : State := { s with keys := keys }

/-- The requests of the host, one at a time (R350, R351). -/
inductive HostAction where
  /-- `reset()`. -/
  | reset
  /-- `load_program(bytes)`. -/
  | load (bytes : List Byte)
  /-- Write the key vector. -/
  | keys (keys : Vector Bool 16)
  /-- Perform one step. -/
  | step
deriving DecidableEq, Repr

/-- One request, run to completion (R350). -/
def perform : HostAction → State → Answer
  | .reset, s => .next (hostReset s)
  | .load bytes, s => .next (loadProgram bytes s).2
  | .keys k, s => .next (updateKeys k s)
  | .step, s => Sys2Proof.Machine.step s

/-- The numeric code of a fatal kind (spec/60_exceptions.md R301, the spec's decision D2, notes/assumptions/31.md). -/
def Fault.code : Fault → Nat
  | .addressOutOfRange => 2
  | .stackOverflow => 3
  | .stackUnderflow => 4
  | .keyOutOfRange => 5

/-- The numeric code of a step result (spec/60_exceptions.md R301). -/
def StepResult.code : StepResult → Nat
  | .ok => 0
  | .unknownOpcode _ _ => 1
  | .fatal k _ => k.code

/-- The numeric code of a load result (spec/60_exceptions.md R301). -/
def LoadResult.code : LoadResult → Nat
  | .ok => 0
  | .romTooLarge _ => 6

end Sys2Proof.Machine
end

