-- ==== Sys2Proof/Safety.lean ====
section
/-! DEFINITION. The terms claims use: the invariant of reachable states, the places of a state and what it is to leave them
alone, and the spec's whole-machine tables (who writes what, where PC goes, what raises what), each written from its rule and
not from the meanings. -/

namespace Sys2Proof.Machine

/-! ### Good runs and the invariant -/

/-- No fatal kind is latched: the machine still executes (spec/10_state.md R40). A good run ends with this. -/
def State.running (s : State) : Prop := s.fault = none

/-- What holds of every state a run reaches (spec/10_state.md R30, R31, R40; notes/assumptions/10.md for the first clause). -/
structure State.Inv (s : State) : Prop where
  /-- Memory is in its canonical form. -/
  mem_wf : s.mem.wf = true
  /-- A slot holds the address of a CALL that was fetched, at most 4094. -/
  slots_fetchable : ∀ k : BitVec 4, (s.slot k).toNat ≤ 4094
  /-- Slot 0 is never written. -/
  slot_zero : s.slot 0 = 0
  /-- No transfer leaves PC above 0xFFF + 0xFF. -/
  pc_bound : s.pc.toNat ≤ 0x10FE
  /-- The latch and the step result agree. -/
  fault_reported : ∀ k, s.fault = some k → ∃ info, s.result = .fatal k info

/-- PC stands at a `1nnn` that jumps to itself, the conventional end of a program (spec/70_reset_and_hazards.md R356). -/
def State.atSelfJump (s : State) : Prop := s.fault = none ∧ ∃ op, s.fetch = some op ∧ decodeOp op = .ok (.jp s.pc)

/-- END_OF_RUN at the spec's suggested value (spec/92_eei_decisions.md D24; notes/assumptions/28.md): a self-jump with both
timers at 0, or a latched fault (a bad end). -/
def State.runOver (s : State) : Prop := (s.atSelfJump ∧ s.dt = 0 ∧ s.st = 0) ∨ ¬ s.running

/-! ### Places and frames -/

/-- Every place of a state that can change by itself (spec/10_state.md R20). -/
inductive Place where
  | mem (a : Nat)
  | reg (r : Reg)
  | i
  | pc
  | slot (k : BitVec 4)
  | sp
  | dt
  | st
  | pixel (row col : Nat)
  | key (k : Fin 16)
  | redraw
  | tone
  | fault
  | result
  | rndDraws
deriving DecidableEq, Repr

/-- The place holds after what it held before. -/
def Place.same : Place → State → State → Prop
  | .mem a, s, t => t.byteAt a = s.byteAt a
  | .reg r, s, t => t.reg r = s.reg r
  | .i, s, t => t.i = s.i
  | .pc, s, t => t.pc = s.pc
  | .slot k, s, t => t.slot k = s.slot k
  | .sp, s, t => t.sp = s.sp
  | .dt, s, t => t.dt = s.dt
  | .st, s, t => t.st = s.st
  | .pixel row col, s, t => t.fb.pixel row col = s.fb.pixel row col
  | .key k, s, t => t.keys.get k = s.keys.get k
  | .redraw, s, t => t.redraw = s.redraw
  | .tone, s, t => t.tone = s.tone
  | .fault, s, t => t.fault = s.fault
  | .result, s, t => t.result = s.result
  | .rndDraws, s, t => t.rndDraws = s.rndDraws

/-- The frame: from `s` to `t` every place outside `changed` is as it was. -/
def ChangesOnly (changed : Place → Prop) (s t : State) : Prop := ∀ p, ¬ changed p → p.same s t

/-! ### How an instruction ends -/

/-- The instruction completes: Vx takes `b`, PC goes to P + 2, nothing else changes. -/
def SetsReg (i : Instr) (s : State) (x : Reg) (b : Byte) : Prop :=
  ∃ t, exec i s = .next t ∧ t.reg x = b ∧ t.pc = s.pc + 2 ∧ ChangesOnly (fun p => p = .reg x ∨ p = .pc) s t

/-- The instruction completes: Vx takes the number `result`, VF the flag unless x is VF, PC goes to P + 2, nothing else
changes (spec/43_alu.md R192). -/
def SetsRegAndFlag (i : Instr) (s : State) (x : Reg) (result : Nat) (flag : Bool) : Prop :=
  ∃ t, exec i s = .next t ∧ (t.reg x).toNat = result ∧ (x ≠ Reg.vf → (t.reg Reg.vf).toNat = if flag then 1 else 0) ∧
    t.pc = s.pc + 2 ∧ ChangesOnly (fun p => p = .reg x ∨ p = .reg Reg.vf ∨ p = .pc) s t

/-- The instruction completes: PC goes to `w`, nothing else changes. -/
def MovesPc (i : Instr) (s : State) (w : Word) : Prop :=
  ∃ t, exec i s = .next t ∧ t.pc = w ∧ ChangesOnly (fun p => p = .pc) s t

/-- The instruction completes: I takes the number `n`, PC goes to P + 2, nothing else changes. -/
def SetsI (i : Instr) (s : State) (n : Nat) : Prop :=
  ∃ t, exec i s = .next t ∧ t.i.toNat = n ∧ t.pc = s.pc + 2 ∧ ChangesOnly (fun p => p = .i ∨ p = .pc) s t

/-- The instruction raises `kind(info)`: FAULT and the result take it, nothing else changes, PC stays P
(spec/60_exceptions.md R305). -/
def RaisesFatal (i : Instr) (s : State) (kind : Fault) (info : Nat) : Prop :=
  ∃ t, exec i s = .next t ∧ t.fault = some kind ∧ t.result = .fatal kind (some info) ∧
    ChangesOnly (fun p => p = .fault ∨ p = .result) s t

/-- The encoding line of an instruction rule: every word with `op and mask = pattern` decodes to `i op`, `i` naming which
field is which operand (spec/30_encoding.md R92, R95). -/
def DecodesTo (mask pattern : Word) (i : Word → Instr) : Prop := ∀ op : Word, op &&& mask = pattern → decodeOp op = .ok (i op)

/-! ### The spec's tables over all instructions -/

/-- "Which instructions read and write V", the write rows: the registers an instruction may write
(spec/10_state.md R26; Fx65 writes V0 to Vx). -/
def mayWriteReg : Instr → Reg → Bool
  | .ldImm x _, r | .addImm x _, r | .ldReg x _, r | .orReg x _, r | .andReg x _, r | .xorReg x _, r | .rnd x _, r
  | .ldFromDt x, r | .ldKey x, r => r == x
  | .addReg x _, r | .subReg x _, r | .shr x _, r | .subn x _, r | .shl x _, r => r == x || r == Reg.vf
  | .drw _ _ _, r => r == Reg.vf
  | .loadRegs x, r => decide (r ≤ x)
  | .cls, _ | .ret, _ | .jp _, _ | .call _, _ | .seImm _ _, _ | .sneImm _ _, _ | .seReg _ _, _ | .sneReg _ _, _
  | .ldI _, _ | .jpV0 _, _ | .skp _, _ | .sknp _, _ | .ldDt _, _ | .ldSt _, _ | .addI _, _ | .ldFont _, _
  | .ldBcd _, _ | .storeRegs _, _ => false

/-- Some key is down. -/
def State.anyKey (s : State) : Bool := s.keys.toList.any id

/-- The key numbered `k` is down; numbers above 15 name no key. -/
def State.keyDown (s : State) (k : Nat) : Bool := (s.keys[k]?).getD false

/-- `skip` if `c` else `next` (spec/40_cycle.md R126). -/
def pcSkip (s : State) (c : Bool) : Word := if c then s.pc + 4 else s.pc + 2

/-- PC at the end of a step that does not end fatal, by class (the table of spec/40_cycle.md R126). -/
def pcAfter (s : State) : Instr → Word
  | .jp nnn => nnn
  | .jpV0 nnn => nnn + (s.reg 0).setWidth 16
  | .call nnn => nnn
  | .ret => s.slot s.sp + 2
  | .seImm x kk => pcSkip s (s.reg x == kk)
  | .sneImm x kk => pcSkip s (!(s.reg x == kk))
  | .seReg x y => pcSkip s (s.reg x == s.reg y)
  | .sneReg x y => pcSkip s (!(s.reg x == s.reg y))
  | .skp x => pcSkip s (s.keyDown (s.reg x).toNat)
  | .sknp x => pcSkip s (!s.keyDown (s.reg x).toNat)
  | .ldKey _ => if s.anyKey then s.pc + 2 else s.pc
  | .cls | .ldImm _ _ | .addImm _ _ | .ldReg _ _ | .orReg _ _ | .andReg _ _ | .xorReg _ _ | .addReg _ _ | .subReg _ _
  | .shr _ _ | .subn _ _ | .shl _ _ | .ldI _ | .rnd _ _ | .drw _ _ _ | .ldFromDt _ | .ldDt _ | .ldSt _ | .addI _
  | .ldFont _ | .ldBcd _ | .storeRegs _ | .loadRegs _ => s.pc + 2

/-- The fatal kind an instruction raises in a state, with the information it carries (the table of spec/60_exceptions.md R309,
R301); nothing for an instruction the table does not list. -/
def raises (s : State) : Instr → Option (Fault × Nat)
  | .ret => if s.sp = 0 then some (.stackUnderflow, s.pc.toNat) else none
  | .call _ => if s.sp = 15 then some (.stackOverflow, s.pc.toNat) else none
  | .drw _ _ n =>
    if 1 ≤ n.val ∧ s.i.toNat + n.val - 1 > 4095 then some (.addressOutOfRange, s.i.toNat + n.val - 1) else none
  | .ldBcd _ => if s.i.toNat + 2 > 4095 then some (.addressOutOfRange, s.i.toNat + 2) else none
  | .storeRegs x | .loadRegs x =>
    if s.i.toNat + x.val > 4095 then some (.addressOutOfRange, s.i.toNat + x.val) else none
  | .skp x | .sknp x => if (s.reg x).toNat > 15 then some (.keyOutOfRange, (s.reg x).toNat) else none
  | .cls | .jp _ | .seImm _ _ | .sneImm _ _ | .seReg _ _ | .ldImm _ _ | .addImm _ _ | .ldReg _ _ | .orReg _ _
  | .andReg _ _ | .xorReg _ _ | .addReg _ _ | .subReg _ _ | .shr _ _ | .subn _ _ | .shl _ _ | .sneReg _ _ | .ldI _
  | .jpV0 _ | .rnd _ _ | .ldFromDt _ | .ldKey _ | .ldDt _ | .ldSt _ | .addI _ | .ldFont _ => none

/-- The instruction the next step fetches and decodes, if it gets one. -/
def State.nextInstr (s : State) : Option Instr :=
  match s.fetch with
  | some op => (decodeOp op).toOption
  | none => none

/-- DT as phase 5 of the next step finds it: what an Fx15 of this very step writes, else DT (spec/40_cycle.md R129). -/
def State.dtAtDecay (s : State) : Byte :=
  match s.nextInstr with
  | some (.ldDt x) => s.reg x
  | _ => s.dt

/-- ST as phase 5 of the next step finds it: what an Fx18 of this very step writes, else ST (spec/40_cycle.md R129). -/
def State.stAtDecay (s : State) : Byte :=
  match s.nextInstr with
  | some (.ldSt x) => s.reg x
  | _ => s.st

/-- The result of a step of a machine with no latched fault, by the tables: the fetch first, then decode, then the
instruction (spec/60_exceptions.md R301, R309, R310, spec/40_cycle.md R132). -/
def State.expectedResult (s : State) : StepResult :=
  match s.fetch with
  | none => .fatal .addressOutOfRange (some s.pc.toNat)
  | some op =>
    match decodeOp op with
    | .error _ => .unknownOpcode op s.pc
    | .ok i =>
      match raises s i with
      | some (k, info) => .fatal k (some info)
      | none => .ok

/-- The cell (row, col) is under a 1 bit of the n-row sprite at I, placed at (Vx mod 64, Vy mod 32) and clipped at the edges
(spec/45_display.md R261, R262). -/
def State.spriteCovers (s : State) (x y : Reg) (n row col : Nat) : Bool :=
  let x0 := (s.reg x).toNat % 64
  let y0 := (s.reg y).toNat % 32
  decide (y0 ≤ row ∧ row < y0 + n ∧ x0 ≤ col ∧ col < x0 + 8) && (s.byteAt (s.i.toNat + (row - y0))).getLsbD (7 - (col - x0))

end Sys2Proof.Machine
end

