-- ==== Sys2Proof/Certificates/Slice0/Obligations.lean ====
section
/-! DEFINITION. The statements for the provers, each with the rules of spec/ it comes from. A statement whose docstring names a
decision D<n> or G<n> rests on the spec's own choice there, and on the log entry named. -/

open Sys2Proof Sys2Proof.Machine

/-! ### Encoding -/

/-- Decode of encode is the instruction, for every well-formed instruction at every operand value, as a word and as the two
bytes in memory with anything after them (30_encoding.md R90, R92, R94, R95; patterns G1, log 7; strictness D12, log 15). -/
def Obligations.EncodeThenDecode : Prop :=
  ∀ i : Instr, i.wellFormed = true →
    decodeOp (encode i) = .ok i ∧ ∀ rest : List Byte, decode (encodeBytes i ++ rest) = .ok (i, rest)

/-- A word that decodes is the encoding of what it decodes to, which is well-formed: no bit of a word is dropped
(30_encoding.md R93, R94; patterns G1, log 7). -/
def Obligations.DecodeThenEncode : Prop :=
  ∀ (op : Word) (i : Instr), decodeOp op = .ok i → encode i = op ∧ i.wellFormed = true

/-- "An opcode selects the row when op and mask = match": the rows with that property are the row of the decoded instruction,
so no two rows overlap (30_encoding.md R95; patterns G1, log 7). -/
def Obligations.OpcodeTableSelectsInstruction : Prop :=
  ∀ (op : Word) (r : Fin 34), selectsRow op r = true ↔ ∃ i, decodeOp op = .ok i ∧ i.row = r

/-- Decode is total, and its unknown opcodes are exactly the table of 30_encoding.md R101 (the patterns
listed, but for the document's five, are G1, D13: PRESUMED, log 7; strictness D12: DESIGN CHOICE, log 15). -/
def Obligations.UnknownOpcodesExactly : Prop :=
  ∀ op : Word,
    ((∃ i, decodeOp op = .ok i) ∨ decodeOp op = .error (.unknownOpcode op)) ∧
    ((∃ e, decodeOp op = .error e) ↔
      (op.toNat / 4096 = 0 ∧ op ≠ 0x00E0 ∧ op ≠ 0x00EE) ∨
      (op.toNat / 4096 = 5 ∧ op.toNat % 16 ≠ 0) ∨
      (op.toNat / 4096 = 8 ∧ op.toNat % 16 ∈ [8, 9, 10, 11, 12, 13, 15]) ∨
      (op.toNat / 4096 = 9 ∧ op.toNat % 16 ≠ 0) ∨
      (op.toNat / 4096 = 14 ∧ op.toNat % 256 ∉ [0x9E, 0xA1]) ∨
      (op.toNat / 4096 = 15 ∧ op.toNat % 256 ∉ [0x07, 0x0A, 0x15, 0x18, 0x1E, 0x29, 0x33, 0x55, 0x65]))

/-- Words written out in the spec decode to what they stand for: the document's 00E0, 8014, 8015, Fx55, Fx65 (30_encoding.md
R96), and with them at least one word of each of the sixteen families (patterns and field positions G1, G2: PRESUMED, log 7). -/
def Obligations.SpecWordsDecode : Prop :=
  decodeOp 0x00E0 = .ok .cls ∧ decodeOp 0x8014 = .ok (.addReg 0 1) ∧ decodeOp 0x8015 = .ok (.subReg 0 1) ∧
  decodeOp 0xF355 = .ok (.storeRegs 3) ∧ decodeOp 0xF365 = .ok (.loadRegs 3) ∧ decodeOp 0x1204 = .ok (.jp 0x204) ∧
  decodeOp 0x3A42 = .ok (.seImm 10 0x42) ∧ decodeOp 0xA300 = .ok (.ldI 0x300) ∧ decodeOp 0xD012 = .ok (.drw 0 1 2) ∧
  decodeOp 0xE59E = .ok (.skp 5) ∧ decodeOp 0xF50A = .ok (.ldKey 5) ∧ decodeOp 0x220A = .ok (.call 0x20A) ∧
  decodeOp 0x4A42 = .ok (.sneImm 10 0x42) ∧ decodeOp 0x5120 = .ok (.seReg 1 2) ∧ decodeOp 0x60EA = .ok (.ldImm 0 0xEA) ∧
  decodeOp 0x71FF = .ok (.addImm 1 0xFF) ∧ decodeOp 0x9120 = .ok (.sneReg 1 2) ∧ decodeOp 0xBFFF = .ok (.jpV0 0xFFF) ∧
  decodeOp 0xC10F = .ok (.rnd 1 0x0F)

/-! ### The step -/

/-- When the bytes at PC decode to an instruction and no fault is latched, the step is: reset both cycle flags, run exec of
that instruction, and, if it raised nothing, decay the timers and answer Ok (40_cycle.md R120). That a step whose instruction
raised ends there, with no timer decay, is the spec's decision D1 (R128): DESIGN CHOICE, log 5. -/
def Obligations.StepRunsDecodedInstruction : Prop :=
  ∀ (s : State) (i : Instr), s.fault = none → s.pc.toNat ≤ 4094 → i.wellFormed = true →
    decode [s.byteAt s.pc.toNat, s.byteAt (s.pc.toNat + 1)] = .ok (i, []) →
    step s = finishStep (exec i s.clearFlags) ∧
    ∀ u, exec i s.clearFlags = .next u →
      (u.fault = none → step s = .next (u.decay.report .ok)) ∧ (u.fault ≠ none → step s = .next u)

/-- Fetch reads two consecutive bytes, big-endian, exactly when PC + 1 is below 4096; else the step raises
AddressOutOfRange(PC) (20_memory.md R65). That raising leaves a next state with FAULT set is the latch of the spec's decision
D1 (DESIGN CHOICE, log 5). -/
def Obligations.FetchIsBigEndian : Prop :=
  ∀ s : State,
    (s.pc.toNat + 1 < 4096 →
      ∃ op, s.fetch = some op ∧ op.toNat = (s.byteAt s.pc.toNat).toNat * 256 + (s.byteAt (s.pc.toNat + 1)).toNat) ∧
    (4096 ≤ s.pc.toNat + 1 → s.fetch = none ∧
      (s.fault = none → ∃ t, step s = .next t ∧ t.fault = some .addressOutOfRange ∧
        t.result = .fatal .addressOutOfRange (some s.pc.toNat)))

/-- A step with PC at 4095 or more raises AddressOutOfRange(PC): only the flags, FAULT and the result change
(40_cycle.md R123, 60_exceptions.md R302; what a fatal step leaves is D1, log 5). -/
def Obligations.FetchPastEndIsFatal : Prop :=
  ∀ s : State, s.fault = none → 4095 ≤ s.pc.toNat →
    ∃ t, step s = .next t ∧ t.fault = some .addressOutOfRange ∧ t.result = .fatal .addressOutOfRange (some s.pc.toNat) ∧
      t.redraw = false ∧ t.tone = false ∧
      ChangesOnly (fun p => p = .fault ∨ p = .result ∨ p = .redraw ∨ p = .tone) s t

/-- With FAULT set, any number of steps changes nothing, not even the cycle flags; each answers Fatal of the same kind
(40_cycle.md R121, D1, log 5; the result carries the kind alone, log 4). -/
def Obligations.LatchedMachineDoesNothing : Prop :=
  ∀ (s : State) (k : Fault) (n : Nat), s.fault = some k →
    Host.Core.run Sys2Proof.core (n + 1) s = .next { s with result := .fatal k none }

/-- A step on an unknown opcode: PC held, nothing executed, the timers decay, TONE follows ST, the result is the warning, FAULT
stays None (40_cycle.md R131, D11, log 14). -/
def Obligations.UnknownOpcodeStep : Prop :=
  ∀ (s : State) (op : Word) (e : Reject), s.fault = none → s.fetch = some op → decodeOp op = .error e →
    ∃ t, step s = .next t ∧ t.dt.toNat = s.dt.toNat - 1 ∧ t.st.toNat = s.st.toNat - 1 ∧ t.redraw = false ∧
      (t.tone = true ↔ 0 < s.st.toNat) ∧ t.result = .unknownOpcode op s.pc ∧
      ChangesOnly (fun p => p = .dt ∨ p = .st ∨ p = .redraw ∨ p = .tone ∨ p = .result) s t

/-- "The machine repeats the warning for ever, its timers running down to 0" (40_cycle.md R131, D11, log 14). -/
def Obligations.UnknownOpcodeRepeatsForever : Prop :=
  ∀ (s : State) (op : Word) (e : Reject) (n : Nat), s.fault = none → s.fetch = some op → decodeOp op = .error e →
    ∃ t, Host.Core.run Sys2Proof.core (n + 1) s = .next t ∧ t.pc = s.pc ∧ t.fault = none ∧
      t.result = .unknownOpcode op s.pc ∧ t.dt.toNat = s.dt.toNat - (n + 1) ∧ t.st.toNat = s.st.toNat - (n + 1)

/-- Every instruction in every state, and every request of the host, answers a next state: nothing stops the model
(40_cycle.md R120, R132, 60_exceptions.md R300; a fatal step is a next state by D1, log 5). -/
def Obligations.EveryRequestAnswersNext : Prop :=
  (∀ (i : Instr) (s : State), ∃ t, exec i s = .next t) ∧ ∀ (a : HostAction) (s : State), ∃ t, perform a s = .next t

/-- A step that ends fatal changed nothing but the two flags, now false, FAULT and the result (60_exceptions.md R305,
40_cycle.md R128, D1, log 5). -/
def Obligations.FatalStepIsPrecise : Prop :=
  ∀ (s t : State) (k : Fault), s.fault = none → step s = .next t → t.fault = some k →
    t.redraw = false ∧ t.tone = false ∧ (∃ info, t.result = .fatal k (some info)) ∧
      ChangesOnly (fun p => p = .fault ∨ p = .result ∨ p = .redraw ∨ p = .tone) s t

/-- The result and FAULT after a step are those of the table of what raises what, with the information it carries
(60_exceptions.md R301, R305, R309, R310, 40_cycle.md R132). That FAULT takes the kind is the latch D1 (log 5), what raises is
D3, D5, D17 (logs 17, 18, 20), the warning D11 (log 14). -/
def Obligations.StepResultFollowsTable : Prop :=
  ∀ s t : State, s.fault = none → step s = .next t →
    t.result = s.expectedResult ∧
      ∀ k, t.fault = some k ↔ ∃ info, s.expectedResult = .fatal k (some info)

/-- In a step that runs an instruction and does not end fatal, phase 5 acts on the timer values execute left, an Fx15 or Fx18 of
the same step included: each loses 1 if above 0, and TONE is true exactly when ST was above 0 before its decrement; an Fx07 has
read DT before that (40_cycle.md R129). Steps on an unknown opcode are in UnknownOpcodeStep, fatal ones in FatalStepIsPrecise. -/
def Obligations.TimersDecayAfterExecute : Prop :=
  ∀ (s t : State) (i : Instr), s.fault = none → s.nextInstr = some i → step s = .next t → t.fault = none →
    t.dt.toNat = s.dtAtDecay.toNat - 1 ∧ t.st.toNat = s.stAtDecay.toNat - 1 ∧ (t.tone = true ↔ 0 < s.stAtDecay.toNat) ∧
      ∀ x, i = .ldFromDt x → t.reg x = s.dt

/-- PC at the end of a step that does not end fatal is that of the table of classes (40_cycle.md R126). -/
def Obligations.PcFollowsClassTable : Prop :=
  ∀ s t : State, s.fault = none → step s = .next t → t.fault = none →
    t.pc = match s.nextInstr with
      | some i => pcAfter s i
      | none => s.pc

/-- REDRAW after a step is true exactly when the step ran CLS or DRW and did not end fatal (10_state.md R37; CLS by D15, log 16;
that a step which ends fatal leaves it false is D1, R128, R305: DESIGN CHOICE, log 5). -/
def Obligations.RedrawExactlyAfterClsAndDrw : Prop :=
  ∀ s t : State, s.fault = none → step s = .next t →
    (t.redraw = true ↔ t.fault = none ∧ (s.nextInstr = some .cls ∨ ∃ x y n, s.nextInstr = some (.drw x y n)))

/-- The key update overwrites KEYS with the host's vector and changes nothing else; no step and no load changes KEYS; only a
reset clears a latched FAULT (10_state.md R36, 70_reset_and_hazards.md R350, 40_cycle.md R135, 60_exceptions.md R313). That KEYS
is stored is log 3, the host's rights D27 and log 30, the latch D1 and log 5. -/
def Obligations.KeysAndLatchAcrossRequests : Prop :=
  (∀ (k : Vector Bool 16) (s : State),
    ∃ t, perform (.keys k) s = .next t ∧ t.keys = k ∧ ChangesOnly (fun p => ∃ j, p = .key j) s t) ∧
  ∀ (a : HostAction) (s t : State), perform a s = .next t → a ≠ .reset →
    ((∀ k, a ≠ .keys k) → t.keys = s.keys) ∧ (∀ k, s.fault = some k → t.fault = some k)

/-- Each piece of state is written by the instructions the state table names as its writers and by no other: V by those of the
register table, PC by every instruction that does not raise, FAULT by one that raises (10_state.md R20, R26). CLS writing
REDRAW is D15 (log 16), FAULT and PC at a fatal outcome D1 (log 5), what raises D3, D5, D17 (logs 17, 18, 20). -/
def Obligations.StateWrittenOnlyByItsWriters : Prop :=
  ∀ (i : Instr) (s t : State), exec i s = .next t →
    ((∀ x, i ≠ .ldBcd x) → (∀ x, i ≠ .storeRegs x) → ∀ a, t.byteAt a = s.byteAt a) ∧
    ((∀ w, i ≠ .ldI w) → (∀ x, i ≠ .addI x) → (∀ x, i ≠ .ldFont x) → t.i = s.i) ∧
    ((∀ w, i ≠ .call w) → ∀ k, t.slot k = s.slot k) ∧
    ((∀ w, i ≠ .call w) → i ≠ .ret → t.sp = s.sp) ∧
    ((∀ x, i ≠ .ldDt x) → t.dt = s.dt) ∧
    ((∀ x, i ≠ .ldSt x) → t.st = s.st) ∧
    (i ≠ .cls → (∀ x y n, i ≠ .drw x y n) → t.redraw = s.redraw ∧ ∀ row col, t.fb.pixel row col = s.fb.pixel row col) ∧
    t.tone = s.tone ∧ t.keys = s.keys ∧
    (∀ r, mayWriteReg i r = false → t.reg r = s.reg r) ∧
    (raises s i ≠ none → t.pc = s.pc) ∧
    (raises s i = none → t.fault = s.fault)

/-- A register is written only by the instructions of the write rows of the register table, VF as a flag by the six of them
only (10_state.md R26, R27). -/
def Obligations.RegistersWrittenOnlyPerTable : Prop :=
  ∀ (i : Instr) (s t : State) (r : Reg), exec i s = .next t → mayWriteReg i r = false → t.reg r = s.reg r

/-! ### Control transfer and skips -/

/-- JP nnn, encoding and effect: PC takes nnn and nothing else changes (41_control_flow.md R152). Pattern and field position are
general knowledge the spec adopts (G1, G2): PRESUMED, log 7. -/
def Obligations.JumpSetsPc : Prop :=
  DecodesTo 0xF000 0x1000 (fun op => .jp (fieldNnn op)) ∧ ∀ (nnn : Word) (s : State), MovesPc (.jp nnn) s nnn

/-- JP V0, nnn: PC takes the sum unreduced, for every address an encoding holds (41_control_flow.md R154; D29, log 21). -/
def Obligations.JumpV0AddsUnmasked : Prop :=
  ∀ (nnn : Word) (s : State), nnn.toNat < 4096 →
    ∃ w : Word, MovesPc (.jpV0 nnn) s w ∧ w.toNat = nnn.toNat + (s.reg 0).toNat

/-- CALL nnn: SP grows by 1, the new slot holds the address of the CALL itself, PC takes nnn; with SP = 15 it raises
StackOverflow(P) (41_control_flow.md R153; the overflow is D3, log 18). -/
def Obligations.CallSavesItsOwnAddress : Prop :=
  ∀ (nnn : Word) (s : State),
    (s.sp.toNat < 15 →
      ∃ t, exec (.call nnn) s = .next t ∧ t.sp.toNat = s.sp.toNat + 1 ∧ t.slot t.sp = s.pc ∧ t.pc = nnn ∧
        ChangesOnly (fun p => p = .sp ∨ p = .slot (s.sp + 1) ∨ p = .pc) s t) ∧
    (s.sp.toNat = 15 → RaisesFatal (.call nnn) s .stackOverflow s.pc.toNat)

/-- RET: PC takes the slot's call-site address plus 2, SP loses 1, the slot keeps its value; with SP = 0 it raises
StackUnderflow(P) (41_control_flow.md R151; the underflow is D3, log 18). -/
def Obligations.ReturnGoesPastTheCall : Prop :=
  ∀ s : State,
    (0 < s.sp.toNat →
      ∃ t, exec .ret s = .next t ∧ t.pc = s.slot s.sp + 2 ∧ t.sp.toNat = s.sp.toNat - 1 ∧
        ChangesOnly (fun p => p = .sp ∨ p = .pc) s t) ∧
    (s.sp.toNat = 0 → RaisesFatal .ret s .stackUnderflow s.pc.toNat)

/-- A CALL and then a RET, with the stack as the CALL left it, resume after the CALL with SP as before it
(41_control_flow.md R151, R153). -/
def Obligations.CallThenReturnResumes : Prop :=
  ∀ (nnn : Word) (s u w : State), s.sp.toNat < 15 → exec (.call nnn) s = .next u → w.sp = u.sp → w.stack = u.stack →
    ∃ t, exec .ret w = .next t ∧ t.pc = s.pc + 2 ∧ t.sp = s.sp

/-- SE Vx, kk, encoding and effect: skip if equal (42_skips.md R171). Pattern and field positions G1, G2: PRESUMED, log 7. -/
def Obligations.SkipIfEqualImmediate : Prop :=
  DecodesTo 0xF000 0x3000 (fun op => .seImm (fieldX op) (fieldKk op)) ∧
  ∀ (x : Reg) (kk : Byte) (s : State), MovesPc (.seImm x kk) s (if s.reg x = kk then s.pc + 4 else s.pc + 2)

/-- SNE Vx, kk, encoding and effect: skip if not equal (42_skips.md R172). Pattern and field positions G1, G2: PRESUMED,
log 7. -/
def Obligations.SkipIfNotEqualImmediate : Prop :=
  DecodesTo 0xF000 0x4000 (fun op => .sneImm (fieldX op) (fieldKk op)) ∧
  ∀ (x : Reg) (kk : Byte) (s : State), MovesPc (.sneImm x kk) s (if s.reg x = kk then s.pc + 2 else s.pc + 4)

/-- SE Vx, Vy, encoding and effect: skip if equal, so x = y always skips (42_skips.md R173). Pattern and field positions G1, G2:
PRESUMED, log 7; the strict low nibble D12 (R102): DESIGN CHOICE, log 15. -/
def Obligations.SkipIfEqualRegisters : Prop :=
  DecodesTo 0xF00F 0x5000 (fun op => .seReg (fieldX op) (fieldY op)) ∧
  (∀ op : Word, op &&& 0xF000 = 0x5000 → op &&& 0x000F ≠ 0 → decodeOp op = .error (.unknownOpcode op)) ∧
  ∀ (x y : Reg) (s : State), MovesPc (.seReg x y) s (if s.reg x = s.reg y then s.pc + 4 else s.pc + 2)

/-- SNE Vx, Vy, encoding and effect: skip if not equal, so x = y never skips (42_skips.md R174). Pattern and field positions G1,
G2: PRESUMED, log 7; the strict low nibble D12 (R102): DESIGN CHOICE, log 15. -/
def Obligations.SkipIfNotEqualRegisters : Prop :=
  DecodesTo 0xF00F 0x9000 (fun op => .sneReg (fieldX op) (fieldY op)) ∧
  (∀ op : Word, op &&& 0xF000 = 0x9000 → op &&& 0x000F ≠ 0 → decodeOp op = .error (.unknownOpcode op)) ∧
  ∀ (x y : Reg) (s : State), MovesPc (.sneReg x y) s (if s.reg x = s.reg y then s.pc + 2 else s.pc + 4)

/-! ### Register arithmetic -/

/-- LD Vx, kk, encoding and effect (43_alu.md R190). Pattern and field positions G1, G2: PRESUMED, log 7. -/
def Obligations.LoadImmediate : Prop :=
  DecodesTo 0xF000 0x6000 (fun op => .ldImm (fieldX op) (fieldKk op)) ∧
  ∀ (x : Reg) (kk : Byte) (s : State), SetsReg (.ldImm x kk) s x kk

/-- ADD Vx, kk: the sum modulo 256; no flag, so VF changes only as the destination (43_alu.md R191; D10, log 27). -/
def Obligations.AddImmediateWritesNoFlag : Prop :=
  ∀ (x : Reg) (kk : Byte) (s : State),
    ∃ b : Byte, SetsReg (.addImm x kk) s x b ∧ b.toNat = ((s.reg x).toNat + kk.toNat) % 256

/-- LD, OR, AND, XOR Vx, Vy: copy and bitwise, Vx the destination, VF not written as a flag (43_alu.md R193 to R196; operand
roles D34, log 27). -/
def Obligations.CopyAndLogic : Prop :=
  ∀ (x y : Reg) (s : State),
    SetsReg (.ldReg x y) s x (s.reg y) ∧
    (∃ b : Byte, SetsReg (.orReg x y) s x b ∧ ∀ k < 8, b.getLsbD k = ((s.reg x).getLsbD k || (s.reg y).getLsbD k)) ∧
    (∃ b : Byte, SetsReg (.andReg x y) s x b ∧ ∀ k < 8, b.getLsbD k = ((s.reg x).getLsbD k && (s.reg y).getLsbD k)) ∧
    (∃ b : Byte, SetsReg (.xorReg x y) s x b ∧ ∀ k < 8, b.getLsbD k = ((s.reg x).getLsbD k != (s.reg y).getLsbD k))

/-- ADD Vx, Vy: result the sum modulo 256 of the old values, VF the carry, the result winning when x is VF
(43_alu.md R197, R192; D9, log 13). -/
def Obligations.AddSetsCarry : Prop :=
  ∀ (x y : Reg) (s : State),
    SetsRegAndFlag (.addReg x y) s x (((s.reg x).toNat + (s.reg y).toNat) % 256)
      (decide (255 < (s.reg x).toNat + (s.reg y).toNat))

/-- SUB Vx, Vy: `a - b`, plus 256 when `a < b`; VF 1 exactly when `a` is strictly greater (43_alu.md R199, R192; D9, D32,
logs 13, 26). -/
def Obligations.SubtractSetsStrictNoBorrow : Prop :=
  ∀ (x y : Reg) (s : State),
    SetsRegAndFlag (.subReg x y) s x
      (if (s.reg y).toNat ≤ (s.reg x).toNat then (s.reg x).toNat - (s.reg y).toNat
        else (s.reg x).toNat + 256 - (s.reg y).toNat)
      (decide ((s.reg y).toNat < (s.reg x).toNat))

/-- SUBN Vx, Vy: the same with the operands exchanged, result into Vx (43_alu.md R201, R192; D9, D32, D34, logs 13, 26, 27). -/
def Obligations.ReverseSubtractSetsStrictNoBorrow : Prop :=
  ∀ (x y : Reg) (s : State),
    SetsRegAndFlag (.subn x y) s x
      (if (s.reg x).toNat ≤ (s.reg y).toNat then (s.reg y).toNat - (s.reg x).toNat
        else (s.reg y).toNat + 256 - (s.reg x).toNat)
      (decide ((s.reg x).toNat < (s.reg y).toNat))

/-- SHR Vx: Vx div 2, VF the bit shifted out, whatever y is (43_alu.md R198, R192; D9, D33, logs 13, 27). -/
def Obligations.ShiftRightInPlace : Prop :=
  ∀ (x y : Reg) (s : State),
    SetsRegAndFlag (.shr x y) s x ((s.reg x).toNat / 2) (decide ((s.reg x).toNat % 2 = 1))

/-- SHL Vx: 2 Vx modulo 256, VF the bit shifted out, whatever y is (43_alu.md R200, R192; D9, D33, logs 13, 27). -/
def Obligations.ShiftLeftInPlace : Prop :=
  ∀ (x y : Reg) (s : State),
    SetsRegAndFlag (.shl x y) s x (2 * (s.reg x).toNat % 256) (decide (128 ≤ (s.reg x).toNat))

/-- RND Vx, kk: Vx takes the free byte of this draw masked by kk, so every bit that is 0 in kk is 0 and kk = 0xFF gives the
byte; the next draw is another one (43_alu.md R202; D18, logs 1, 2). It holds for every value of the byte. -/
def Obligations.RandomUnderMask : Prop :=
  ∀ (x : Reg) (kk : Byte) (s : State),
    ∃ t, exec (.rnd x kk) s = .next t ∧
      (∀ k < 8, (t.reg x).getLsbD k = ((Config.rndByte s.rndDraws).getLsbD k && kk.getLsbD k)) ∧
      t.rndDraws = s.rndDraws + 1 ∧ t.pc = s.pc + 2 ∧
      ChangesOnly (fun p => p = .reg x ∨ p = .rndDraws ∨ p = .pc) s t

/-! ### The address register and memory -/

/-- LD I, nnn, encoding and effect; the address of an encoding is below 4096, so the upper 4 bits of I become 0
(44_index_memory.md R231). Pattern and field position G1, G2: PRESUMED, log 7. -/
def Obligations.SetIndex : Prop :=
  DecodesTo 0xF000 0xA000 (fun op => .ldI (fieldNnn op)) ∧ (∀ op : Word, (fieldNnn op).toNat = op.toNat % 4096) ∧
  ∀ (nnn : Word) (s : State), SetsI (.ldI nnn) s nnn.toNat

/-- ADD I, Vx: modulo 65536, no 12-bit mask, no flag (44_index_memory.md R232; D4, log 19). -/
def Obligations.AddToIndexWrapsAt16Bits : Prop :=
  ∀ (x : Reg) (s : State), SetsI (.addI x) s ((s.i.toNat + (s.reg x).toNat) % 65536)

/-- LD F, Vx: I takes 5 times the whole Vx, unmasked (44_index_memory.md R233; D28, log 22). -/
def Obligations.GlyphAddressIsFiveTimes : Prop := ∀ (x : Reg) (s : State), SetsI (.ldFont x) s ((s.reg x).toNat * 5)

/-- LD B, Vx: hundreds, tens and ones of Vx at I, I + 1, I + 2, every other byte as before; past 4095 it raises
AddressOutOfRange(I + 2) and writes nothing (44_index_memory.md R234; D5, log 20). Memory in canonical form (log 10). -/
def Obligations.StoreDecimalDigits : Prop :=
  ∀ (x : Reg) (s : State), s.mem.wf = true →
    (s.i.toNat + 2 ≤ 4095 →
      ∃ t, exec (.ldBcd x) s = .next t ∧ (t.byteAt s.i.toNat).toNat = (s.reg x).toNat / 100 ∧
        (t.byteAt (s.i.toNat + 1)).toNat = (s.reg x).toNat / 10 % 10 ∧
        (t.byteAt (s.i.toNat + 2)).toNat = (s.reg x).toNat % 10 ∧ t.pc = s.pc + 2 ∧
        ChangesOnly (fun p => (∃ a, p = .mem a ∧ s.i.toNat ≤ a ∧ a ≤ s.i.toNat + 2) ∨ p = .pc) s t) ∧
    (4095 < s.i.toNat + 2 → RaisesFatal (.ldBcd x) s .addressOutOfRange (s.i.toNat + 2))

/-- LD [I], Vx: V0 to Vx at I upward, every other byte as before; past 4095 it raises AddressOutOfRange(I + x) and writes
nothing (44_index_memory.md R235; D5, D21, logs 20, 23). Memory in canonical form (log 10). -/
def Obligations.StoreRegisters : Prop :=
  ∀ (x : Reg) (s : State), s.mem.wf = true →
    (s.i.toNat + x.val ≤ 4095 →
      ∃ t, exec (.storeRegs x) s = .next t ∧ (∀ r : Reg, r ≤ x → t.byteAt (s.i.toNat + r.val) = s.reg r) ∧
        t.pc = s.pc + 2 ∧
        ChangesOnly (fun p => (∃ a, p = .mem a ∧ s.i.toNat ≤ a ∧ a ≤ s.i.toNat + x.val) ∨ p = .pc) s t) ∧
    (4095 < s.i.toNat + x.val → RaisesFatal (.storeRegs x) s .addressOutOfRange (s.i.toNat + x.val))

/-- LD Vx, [I]: V0 to Vx from I upward, the registers above Vx and I as before; past 4095 it raises AddressOutOfRange(I + x)
and loads nothing (44_index_memory.md R236; D5, D21, logs 20, 23). -/
def Obligations.LoadRegisters : Prop :=
  ∀ (x : Reg) (s : State),
    (s.i.toNat + x.val ≤ 4095 →
      ∃ t, exec (.loadRegs x) s = .next t ∧ (∀ r : Reg, r ≤ x → t.reg r = s.byteAt (s.i.toNat + r.val)) ∧
        t.pc = s.pc + 2 ∧ ChangesOnly (fun p => (∃ r, p = .reg r ∧ r ≤ x) ∨ p = .pc) s t) ∧
    (4095 < s.i.toNat + x.val → RaisesFatal (.loadRegs x) s .addressOutOfRange (s.i.toNat + x.val))

/-- The document's round trip for every x: Fx55 and then, with memory and I as it left them, Fx65 bring V0 to Vx back
(44_index_memory.md R236, R235; I unchanged by D21, log 23). Memory in canonical form (log 10). -/
def Obligations.StoreThenLoadRestores : Prop :=
  ∀ (x : Reg) (s u w : State), s.mem.wf = true → s.i.toNat + x.val ≤ 4095 → exec (.storeRegs x) s = .next u →
    w.mem = u.mem → w.i = u.i →
    ∃ t, exec (.loadRegs x) w = .next t ∧ ∀ r : Reg, r ≤ x → t.reg r = s.reg r

/-! ### Display -/

/-- CLS: every cell false, REDRAW true (45_display.md R260; REDRAW is D15, log 16). -/
def Obligations.ClearScreen : Prop :=
  ∀ s : State,
    ∃ t, exec .cls s = .next t ∧ (∀ row < 32, ∀ col < 64, t.fb.pixel row col = false) ∧ t.redraw = true ∧
      t.pc = s.pc + 2 ∧ ChangesOnly (fun p => (∃ row col, p = .pixel row col) ∨ p = .redraw ∨ p = .pc) s t

/-- DRW: the loop over rows and columns comes to this: each cell of the grid under a 1 bit of the clipped sprite is flipped,
no other; VF is 1 exactly when such a cell was set; REDRAW true. A range past 4095 with n above 0 raises
AddressOutOfRange(I + n - 1) (45_display.md R261, R262; D5 to D8, logs 8, 12, 13, 20). -/
def Obligations.DrawFlipsExactlyTheSprite : Prop :=
  ∀ (x y : Reg) (n : Nibble) (s : State),
    (n.val = 0 ∨ s.i.toNat + n.val - 1 ≤ 4095 →
      ∃ t, exec (.drw x y n) s = .next t ∧
        (∀ row < 32, ∀ col < 64, t.fb.pixel row col = (s.fb.pixel row col != s.spriteCovers x y n.val row col)) ∧
        ((∃ row < 32, ∃ col < 64, s.fb.pixel row col = true ∧ s.spriteCovers x y n.val row col = true) →
          t.reg Reg.vf = 1) ∧
        ((∀ row < 32, ∀ col < 64, s.fb.pixel row col = true → s.spriteCovers x y n.val row col = false) →
          t.reg Reg.vf = 0) ∧
        t.redraw = true ∧ t.pc = s.pc + 2 ∧
        ChangesOnly (fun p => (∃ row col, p = .pixel row col) ∨ p = .reg Reg.vf ∨ p = .redraw ∨ p = .pc) s t) ∧
    (0 < n.val → 4095 < s.i.toNat + n.val - 1 →
      RaisesFatal (.drw x y n) s .addressOutOfRange (s.i.toNat + n.val - 1))

/-- The same sprite drawn twice at the same position restores the frame buffer, and the second draw sets VF to 1 exactly when
the sprite has a 1 bit over a cell of the grid that was clear before the first (45_display.md R263, whose VF clause holds as
written only where the cells were clear: log 32). x and y are not VF, which the first draw writes. D5 to D8: logs 8,
12, 13, 20. -/
def Obligations.DrawTwiceRestores : Prop :=
  ∀ (x y : Reg) (n : Nibble) (s : State), x ≠ Reg.vf → y ≠ Reg.vf → n.val = 0 ∨ s.i.toNat + n.val - 1 ≤ 4095 →
    ∃ u t, exec (.drw x y n) s = .next u ∧ exec (.drw x y n) u = .next t ∧
      (∀ row < 32, ∀ col < 64, t.fb.pixel row col = s.fb.pixel row col) ∧
      ((∃ row < 32, ∃ col < 64, s.fb.pixel row col = false ∧ s.spriteCovers x y n.val row col = true) →
        t.reg Reg.vf = 1) ∧
      ((∀ row < 32, ∀ col < 64, s.fb.pixel row col = false → s.spriteCovers x y n.val row col = false) →
        t.reg Reg.vf = 0)

/-! ### Keypad and timers -/

/-- SKP and SKNP: for a key number 0 to 15 skip if that key is down, or up; a number above 15 raises KeyOutOfRange(Vx), with no
masking (46_keypad_timers.md R281, R282; the fault is D17, log 17; the level-sensitive sample D22, log 24). -/
def Obligations.SkipOnKey : Prop :=
  ∀ (x : Reg) (s : State),
    (∀ k : Fin 16, (s.reg x).toNat = k.val →
      MovesPc (.skp x) s (if s.keys.get k = true then s.pc + 4 else s.pc + 2) ∧
      MovesPc (.sknp x) s (if s.keys.get k = true then s.pc + 2 else s.pc + 4)) ∧
    (15 < (s.reg x).toNat →
      RaisesFatal (.skp x) s .keyOutOfRange (s.reg x).toNat ∧ RaisesFatal (.sknp x) s .keyOutOfRange (s.reg x).toNat)

/-- LD Vx, DT, encoding and effect: Vx takes DT as it is before this step's decay (46_keypad_timers.md R283).
Pattern G1: PRESUMED, log 7. -/
def Obligations.ReadDelayTimer : Prop :=
  DecodesTo 0xF0FF 0xF007 (fun op => .ldFromDt (fieldX op)) ∧
  ∀ (x : Reg) (s : State), SetsReg (.ldFromDt x) s x s.dt

/-- LD Vx, K, encoding and effect: with some key down, the least such number into Vx and PC to P + 2; with none, nothing, PC
stays P (46_keypad_timers.md R284). Pattern G1: PRESUMED, log 7. -/
def Obligations.WaitForLowestKey : Prop :=
  DecodesTo 0xF0FF 0xF00A (fun op => .ldKey (fieldX op)) ∧
  ∀ (x : Reg) (s : State),
    (∀ k : Fin 16, s.keys.get k = true → (∀ j : Fin 16, j < k → s.keys.get j = false) →
      SetsReg (.ldKey x) s x (BitVec.ofNat 8 k.val)) ∧
    ((∀ k : Fin 16, s.keys.get k = false) → exec (.ldKey x) s = .next s)

/-- LD DT, Vx and LD ST, Vx, encodings and effects: the timer takes Vx; the decay of the same step then takes 1 off, and TONE is
set by it exactly when Vx is above 0, or was set before (46_keypad_timers.md R285, R286; the timers after the decay are derived
there from 40_cycle.md R129). Patterns G1: PRESUMED, log 7. -/
def Obligations.SetTimers : Prop :=
  DecodesTo 0xF0FF 0xF015 (fun op => .ldDt (fieldX op)) ∧ DecodesTo 0xF0FF 0xF018 (fun op => .ldSt (fieldX op)) ∧
  ∀ (x : Reg) (s : State),
    (∃ t, exec (.ldDt x) s = .next t ∧ t.dt = s.reg x ∧ t.decay.dt.toNat = (s.reg x).toNat - 1 ∧ t.pc = s.pc + 2 ∧
      ChangesOnly (fun p => p = .dt ∨ p = .pc) s t) ∧
    (∃ t, exec (.ldSt x) s = .next t ∧ t.st = s.reg x ∧ t.decay.st.toNat = (s.reg x).toNat - 1 ∧
      (t.decay.tone = true ↔ s.tone = true ∨ 0 < (s.reg x).toNat) ∧ t.pc = s.pc + 2 ∧
      ChangesOnly (fun p => p = .st ∨ p = .pc) s t)

/-! ### Reset, load, the invariant, the end of a run -/

/-- The state after reset, from power-on and from any state: the spec's table, the font at 0x000 to 0x04F and zeros elsewhere
(10_state.md R43, 70_reset_and_hazards.md R340; I, FB, flags, KEYS are D16, log 9; the font bytes D14, log 6; FAULT D1, log 5;
reset from any state D26, log 30; the model's count of draws goes on, log 2). -/
def Obligations.ResetLeavesTheTable : Prop :=
  (∀ s : State, ∃ t, perform .reset s = .next t ∧ ChangesOnly (fun p => p = .rndDraws) State.reset t) ∧
  (∀ a < 4096, State.reset.byteAt a = if h : a < font.length then font[a] else 0) ∧ font.length = 80 ∧
  (∀ r, State.reset.reg r = 0) ∧ State.reset.i = 0 ∧ State.reset.pc = 0x0200 ∧ (∀ k, State.reset.slot k = 0) ∧
  State.reset.sp = 0 ∧ State.reset.dt = 0 ∧ State.reset.st = 0 ∧
  (∀ row < 32, ∀ col < 64, State.reset.fb.pixel row col = false) ∧ State.reset.redraw = false ∧
  State.reset.tone = false ∧ (∀ k, State.reset.keys.get k = false) ∧ State.reset.fault = none

/-- `load_program`: more than 3584 bytes answer RomTooLarge and change nothing; else the bytes stand at 0x200 upward and nothing
else changes (70_reset_and_hazards.md R345; that nothing else changes is R346, the spec's decision D23: DESIGN CHOICE, log 30).
Memory in canonical form (log 10). -/
def Obligations.LoadProgramAllOrNothing : Prop :=
  ∀ (bytes : List Byte) (s : State), s.mem.wf = true →
    (3584 < bytes.length → loadProgram bytes s = (.romTooLarge bytes.length, s)) ∧
    (bytes.length ≤ 3584 →
      ∃ t, loadProgram bytes s = (.ok, t) ∧
        (∀ (k : Nat) (h : k < bytes.length), t.byteAt (0x200 + k) = bytes[k]) ∧
        ChangesOnly (fun p => ∃ a, p = .mem a ∧ 0x200 ≤ a ∧ a < 0x200 + bytes.length) s t)

/-- Two canonical memories that read alike are equal data (the model's own representation of 10_state.md R21, log 10). -/
def Obligations.CanonicalMemoryIsUnique : Prop :=
  ∀ m m' : Memory, m.wf = true → m'.wf = true → (∀ a, m.read a = m'.read a) → m = m'

/-- Every step keeps the invariant: canonical memory, slots that hold fetched addresses, slot 0 untouched, PC at most 0x10FE,
latch and result agreeing (10_state.md R30, R31, R40, which rest on D1, D3, D29: logs 5, 18, 21; logs 4, 10). -/
def Obligations.StepKeepsInvariant : Prop := ∀ s t : State, s.Inv → step s = .next t → t.Inv

/-- The invariant holds after reset (10_state.md R43). -/
def Obligations.InvariantAtReset : Prop := State.reset.Inv

/-- Every request of the host keeps the invariant, so it holds whatever the host does between steps
(70_reset_and_hazards.md R350, R351; log 30). -/
def Obligations.HostKeepsInvariant : Prop := ∀ (a : HostAction) (s t : State), s.Inv → perform a s = .next t → t.Inv

/-- A machine at a self-jump stays there: every step is Ok and only DT, ST, TONE and REDRAW, now false, can change
(70_reset_and_hazards.md R356; that such a jump ends a program is a convention, G9, D24, log 28, and not claimed). -/
def Obligations.SelfJumpStays : Prop :=
  ∀ s : State, s.atSelfJump →
    ∃ t, step s = .next t ∧ t.result = .ok ∧ t.redraw = false ∧ t.atSelfJump ∧
      ChangesOnly (fun p => p = .dt ∨ p = .st ∨ p = .tone ∨ p = .redraw ∨ p = .result) s t

/-- FB is mutated only by the clear-screen and sprite-draw instructions, and by reset: it is not part of MEM and no load or store
reaches it, nor does a program load or a key update (10_state.md R35). -/
def Obligations.FrameBufferMutatedOnlyByClsAndDrw : Prop :=
  ∀ (a : HostAction) (s t : State), perform a s = .next t → a ≠ .reset →
    (a = .step → s.nextInstr ≠ some .cls ∧ ∀ x y n, s.nextInstr ≠ some (.drw x y n)) → t.fb = s.fb
end

