-- ==== Sys2Proof/Laws/Decode.lean ====
section
/-! SUPPORT. Reading a field of a packed word gives the field back, and packing the fields of a word gives the word back. -/

namespace Sys2Proof

/-- Split a claim about the bits of a packed or extracted word into its bits. -/
theorem word_ext {w : Nat} {a b : BitVec w} (h : ∀ k < w, a.getLsbD k = b.getLsbD k) : a = b :=
  BitVec.eq_of_getLsbD_eq fun k hk => h k hk

/-! ### Fields of packed words -/

@[simp] theorem fieldFamily_packNnn (f : BitVec 4) (nnn : Word) : fieldFamily (packNnn f nnn) = f := by
  refine word_ext fun k hk => ?_
  simp only [fieldFamily, packNnn, BitVec.getLsbD_append, BitVec.getLsbD_extractLsb']
  interval_cases k <;> simp

@[simp] theorem fieldFamily_packXkk (f : BitVec 4) (x : Reg) (kk : Byte) : fieldFamily (packXkk f x kk) = f := by
  refine word_ext fun k hk => ?_
  simp only [fieldFamily, packXkk, BitVec.getLsbD_append, BitVec.getLsbD_extractLsb']
  interval_cases k <;> simp

@[simp] theorem fieldFamily_packXyn (f : BitVec 4) (x y : Reg) (n : BitVec 4) : fieldFamily (packXyn f x y n) = f := by
  refine word_ext fun k hk => ?_
  simp only [fieldFamily, packXyn, BitVec.getLsbD_append, BitVec.getLsbD_extractLsb']
  interval_cases k <;> simp

@[simp] theorem fieldKk_packXkk (f : BitVec 4) (x : Reg) (kk : Byte) : fieldKk (packXkk f x kk) = kk := by
  refine word_ext fun k hk => ?_
  simp only [fieldKk, packXkk, BitVec.getLsbD_append, BitVec.getLsbD_extractLsb']
  interval_cases k <;> simp

@[simp] theorem fieldN_packXyn (f : BitVec 4) (x y : Reg) (n : BitVec 4) : fieldN (packXyn f x y n) = n := by
  refine word_ext fun k hk => ?_
  simp only [fieldN, packXyn, BitVec.getLsbD_append, BitVec.getLsbD_extractLsb']
  interval_cases k <;> simp

@[simp] theorem fieldX_packXkk (f : BitVec 4) (x : Reg) (kk : Byte) : fieldX (packXkk f x kk) = x := by
  have h : (packXkk f x kk).extractLsb' 8 4 = BitVec.ofFin x := by
    refine word_ext fun k hk => ?_
    simp only [packXkk, BitVec.getLsbD_append, BitVec.getLsbD_extractLsb']
    interval_cases k <;> simp
  rw [fieldX, h]

@[simp] theorem fieldX_packXyn (f : BitVec 4) (x y : Reg) (n : BitVec 4) : fieldX (packXyn f x y n) = x := by
  have h : (packXyn f x y n).extractLsb' 8 4 = BitVec.ofFin x := by
    refine word_ext fun k hk => ?_
    simp only [packXyn, BitVec.getLsbD_append, BitVec.getLsbD_extractLsb']
    interval_cases k <;> simp
  rw [fieldX, h]

@[simp] theorem fieldY_packXyn (f : BitVec 4) (x y : Reg) (n : BitVec 4) : fieldY (packXyn f x y n) = y := by
  have h : (packXyn f x y n).extractLsb' 4 4 = BitVec.ofFin y := by
    refine word_ext fun k hk => ?_
    simp only [packXyn, BitVec.getLsbD_append, BitVec.getLsbD_extractLsb']
    interval_cases k <;> simp
  rw [fieldY, h]

/-- An address of 12 bits comes back whole. -/
theorem fieldNnn_packNnn (f : BitVec 4) {nnn : Word} (h : fitsNnn nnn = true) : fieldNnn (packNnn f nnn) = nnn := by
  simp only [fitsNnn, decide_eq_true_eq] at h
  have e : (packNnn f nnn).extractLsb' 0 12 = nnn.extractLsb' 0 12 := by
    refine word_ext fun k hk => ?_
    simp only [packNnn, BitVec.getLsbD_append, BitVec.getLsbD_extractLsb']
    interval_cases k <;> simp
  rw [fieldNnn, e]
  apply BitVec.eq_of_toNat_eq
  simp
  omega

/-- The address field of any word has 12 bits. -/
theorem fitsNnn_fieldNnn (op : Word) : fitsNnn (fieldNnn op) = true := by
  simp only [fitsNnn, fieldNnn]
  simp
  omega

/-! ### Words packed from their fields -/

theorem packNnn_fields (op : Word) : packNnn (fieldFamily op) (fieldNnn op) = op := by
  refine word_ext fun k hk => ?_
  simp only [fieldFamily, fieldNnn, packNnn, BitVec.getLsbD_append, BitVec.getLsbD_extractLsb', BitVec.getLsbD_setWidth]
  interval_cases k <;> simp

theorem packXkk_fields (op : Word) : packXkk (fieldFamily op) (fieldX op) (fieldKk op) = op := by
  have hx : (BitVec.ofFin (fieldX op) : BitVec 4) = op.extractLsb' 8 4 := rfl
  refine word_ext fun k hk => ?_
  simp only [fieldFamily, fieldKk, packXkk, hx, BitVec.getLsbD_append, BitVec.getLsbD_extractLsb']
  interval_cases k <;> simp

theorem packXyn_fields (op : Word) : packXyn (fieldFamily op) (fieldX op) (fieldY op) (fieldN op) = op := by
  have hx : (BitVec.ofFin (fieldX op) : BitVec 4) = op.extractLsb' 8 4 := rfl
  have hy : (BitVec.ofFin (fieldY op) : BitVec 4) = op.extractLsb' 4 4 := rfl
  refine word_ext fun k hk => ?_
  simp only [fieldFamily, fieldN, packXyn, hx, hy, BitVec.getLsbD_append, BitVec.getLsbD_extractLsb']
  interval_cases k <;> simp

end Sys2Proof
end

