-- ==== Sys2Proof/Laws/State.lean ====
section
/-! SUPPORT. One lemma per field, and per reading of a register, a byte or a slot, per update of State, true by rfl, so that no
later proof unfolds a record update. -/

namespace Sys2Proof.Machine

/-! ### setReg -/

@[simp] theorem State.setReg_mem (s : State) (r : Reg) (b : Byte) : (s.setReg r b).mem = s.mem := rfl
@[simp] theorem State.setReg_v (s : State) (r : Reg) (b : Byte) : (s.setReg r b).v = s.v.set r.val b r.isLt := rfl
@[simp] theorem State.setReg_i (s : State) (r : Reg) (b : Byte) : (s.setReg r b).i = s.i := rfl
@[simp] theorem State.setReg_pc (s : State) (r : Reg) (b : Byte) : (s.setReg r b).pc = s.pc := rfl
@[simp] theorem State.setReg_stack (s : State) (r : Reg) (b : Byte) : (s.setReg r b).stack = s.stack := rfl
@[simp] theorem State.setReg_sp (s : State) (r : Reg) (b : Byte) : (s.setReg r b).sp = s.sp := rfl
@[simp] theorem State.setReg_dt (s : State) (r : Reg) (b : Byte) : (s.setReg r b).dt = s.dt := rfl
@[simp] theorem State.setReg_st (s : State) (r : Reg) (b : Byte) : (s.setReg r b).st = s.st := rfl
@[simp] theorem State.setReg_fb (s : State) (r : Reg) (b : Byte) : (s.setReg r b).fb = s.fb := rfl
@[simp] theorem State.setReg_keys (s : State) (r : Reg) (b : Byte) : (s.setReg r b).keys = s.keys := rfl
@[simp] theorem State.setReg_redraw (s : State) (r : Reg) (b : Byte) : (s.setReg r b).redraw = s.redraw := rfl
@[simp] theorem State.setReg_tone (s : State) (r : Reg) (b : Byte) : (s.setReg r b).tone = s.tone := rfl
@[simp] theorem State.setReg_fault (s : State) (r : Reg) (b : Byte) : (s.setReg r b).fault = s.fault := rfl
@[simp] theorem State.setReg_result (s : State) (r : Reg) (b : Byte) : (s.setReg r b).result = s.result := rfl
@[simp] theorem State.setReg_rndDraws (s : State) (r : Reg) (b : Byte) : (s.setReg r b).rndDraws = s.rndDraws := rfl

/-! ### setRegs -/

@[simp] theorem State.setRegs_mem (s : State) (v : Vector Byte 16) : (s.setRegs v).mem = s.mem := rfl
@[simp] theorem State.setRegs_v (s : State) (v : Vector Byte 16) : (s.setRegs v).v = v := rfl
@[simp] theorem State.setRegs_i (s : State) (v : Vector Byte 16) : (s.setRegs v).i = s.i := rfl
@[simp] theorem State.setRegs_pc (s : State) (v : Vector Byte 16) : (s.setRegs v).pc = s.pc := rfl
@[simp] theorem State.setRegs_stack (s : State) (v : Vector Byte 16) : (s.setRegs v).stack = s.stack := rfl
@[simp] theorem State.setRegs_sp (s : State) (v : Vector Byte 16) : (s.setRegs v).sp = s.sp := rfl
@[simp] theorem State.setRegs_dt (s : State) (v : Vector Byte 16) : (s.setRegs v).dt = s.dt := rfl
@[simp] theorem State.setRegs_st (s : State) (v : Vector Byte 16) : (s.setRegs v).st = s.st := rfl
@[simp] theorem State.setRegs_fb (s : State) (v : Vector Byte 16) : (s.setRegs v).fb = s.fb := rfl
@[simp] theorem State.setRegs_keys (s : State) (v : Vector Byte 16) : (s.setRegs v).keys = s.keys := rfl
@[simp] theorem State.setRegs_redraw (s : State) (v : Vector Byte 16) : (s.setRegs v).redraw = s.redraw := rfl
@[simp] theorem State.setRegs_tone (s : State) (v : Vector Byte 16) : (s.setRegs v).tone = s.tone := rfl
@[simp] theorem State.setRegs_fault (s : State) (v : Vector Byte 16) : (s.setRegs v).fault = s.fault := rfl
@[simp] theorem State.setRegs_result (s : State) (v : Vector Byte 16) : (s.setRegs v).result = s.result := rfl
@[simp] theorem State.setRegs_rndDraws (s : State) (v : Vector Byte 16) : (s.setRegs v).rndDraws = s.rndDraws := rfl

/-! ### setI -/

@[simp] theorem State.setI_mem (s : State) (w : Word) : (s.setI w).mem = s.mem := rfl
@[simp] theorem State.setI_v (s : State) (w : Word) : (s.setI w).v = s.v := rfl
@[simp] theorem State.setI_i (s : State) (w : Word) : (s.setI w).i = w := rfl
@[simp] theorem State.setI_pc (s : State) (w : Word) : (s.setI w).pc = s.pc := rfl
@[simp] theorem State.setI_stack (s : State) (w : Word) : (s.setI w).stack = s.stack := rfl
@[simp] theorem State.setI_sp (s : State) (w : Word) : (s.setI w).sp = s.sp := rfl
@[simp] theorem State.setI_dt (s : State) (w : Word) : (s.setI w).dt = s.dt := rfl
@[simp] theorem State.setI_st (s : State) (w : Word) : (s.setI w).st = s.st := rfl
@[simp] theorem State.setI_fb (s : State) (w : Word) : (s.setI w).fb = s.fb := rfl
@[simp] theorem State.setI_keys (s : State) (w : Word) : (s.setI w).keys = s.keys := rfl
@[simp] theorem State.setI_redraw (s : State) (w : Word) : (s.setI w).redraw = s.redraw := rfl
@[simp] theorem State.setI_tone (s : State) (w : Word) : (s.setI w).tone = s.tone := rfl
@[simp] theorem State.setI_fault (s : State) (w : Word) : (s.setI w).fault = s.fault := rfl
@[simp] theorem State.setI_result (s : State) (w : Word) : (s.setI w).result = s.result := rfl
@[simp] theorem State.setI_rndDraws (s : State) (w : Word) : (s.setI w).rndDraws = s.rndDraws := rfl

/-! ### setPc -/

@[simp] theorem State.setPc_mem (s : State) (w : Word) : (s.setPc w).mem = s.mem := rfl
@[simp] theorem State.setPc_v (s : State) (w : Word) : (s.setPc w).v = s.v := rfl
@[simp] theorem State.setPc_i (s : State) (w : Word) : (s.setPc w).i = s.i := rfl
@[simp] theorem State.setPc_pc (s : State) (w : Word) : (s.setPc w).pc = w := rfl
@[simp] theorem State.setPc_stack (s : State) (w : Word) : (s.setPc w).stack = s.stack := rfl
@[simp] theorem State.setPc_sp (s : State) (w : Word) : (s.setPc w).sp = s.sp := rfl
@[simp] theorem State.setPc_dt (s : State) (w : Word) : (s.setPc w).dt = s.dt := rfl
@[simp] theorem State.setPc_st (s : State) (w : Word) : (s.setPc w).st = s.st := rfl
@[simp] theorem State.setPc_fb (s : State) (w : Word) : (s.setPc w).fb = s.fb := rfl
@[simp] theorem State.setPc_keys (s : State) (w : Word) : (s.setPc w).keys = s.keys := rfl
@[simp] theorem State.setPc_redraw (s : State) (w : Word) : (s.setPc w).redraw = s.redraw := rfl
@[simp] theorem State.setPc_tone (s : State) (w : Word) : (s.setPc w).tone = s.tone := rfl
@[simp] theorem State.setPc_fault (s : State) (w : Word) : (s.setPc w).fault = s.fault := rfl
@[simp] theorem State.setPc_result (s : State) (w : Word) : (s.setPc w).result = s.result := rfl
@[simp] theorem State.setPc_rndDraws (s : State) (w : Word) : (s.setPc w).rndDraws = s.rndDraws := rfl

/-! ### advance -/

@[simp] theorem State.advance_mem (s : State) : (s.advance).mem = s.mem := rfl
@[simp] theorem State.advance_v (s : State) : (s.advance).v = s.v := rfl
@[simp] theorem State.advance_i (s : State) : (s.advance).i = s.i := rfl
@[simp] theorem State.advance_pc (s : State) : (s.advance).pc = s.pc + 2 := rfl
@[simp] theorem State.advance_stack (s : State) : (s.advance).stack = s.stack := rfl
@[simp] theorem State.advance_sp (s : State) : (s.advance).sp = s.sp := rfl
@[simp] theorem State.advance_dt (s : State) : (s.advance).dt = s.dt := rfl
@[simp] theorem State.advance_st (s : State) : (s.advance).st = s.st := rfl
@[simp] theorem State.advance_fb (s : State) : (s.advance).fb = s.fb := rfl
@[simp] theorem State.advance_keys (s : State) : (s.advance).keys = s.keys := rfl
@[simp] theorem State.advance_redraw (s : State) : (s.advance).redraw = s.redraw := rfl
@[simp] theorem State.advance_tone (s : State) : (s.advance).tone = s.tone := rfl
@[simp] theorem State.advance_fault (s : State) : (s.advance).fault = s.fault := rfl
@[simp] theorem State.advance_result (s : State) : (s.advance).result = s.result := rfl
@[simp] theorem State.advance_rndDraws (s : State) : (s.advance).rndDraws = s.rndDraws := rfl

/-! ### skip -/

@[simp] theorem State.skip_mem (s : State) : (s.skip).mem = s.mem := rfl
@[simp] theorem State.skip_v (s : State) : (s.skip).v = s.v := rfl
@[simp] theorem State.skip_i (s : State) : (s.skip).i = s.i := rfl
@[simp] theorem State.skip_pc (s : State) : (s.skip).pc = s.pc + 4 := rfl
@[simp] theorem State.skip_stack (s : State) : (s.skip).stack = s.stack := rfl
@[simp] theorem State.skip_sp (s : State) : (s.skip).sp = s.sp := rfl
@[simp] theorem State.skip_dt (s : State) : (s.skip).dt = s.dt := rfl
@[simp] theorem State.skip_st (s : State) : (s.skip).st = s.st := rfl
@[simp] theorem State.skip_fb (s : State) : (s.skip).fb = s.fb := rfl
@[simp] theorem State.skip_keys (s : State) : (s.skip).keys = s.keys := rfl
@[simp] theorem State.skip_redraw (s : State) : (s.skip).redraw = s.redraw := rfl
@[simp] theorem State.skip_tone (s : State) : (s.skip).tone = s.tone := rfl
@[simp] theorem State.skip_fault (s : State) : (s.skip).fault = s.fault := rfl
@[simp] theorem State.skip_result (s : State) : (s.skip).result = s.result := rfl
@[simp] theorem State.skip_rndDraws (s : State) : (s.skip).rndDraws = s.rndDraws := rfl

/-! ### setMem -/

@[simp] theorem State.setMem_mem (s : State) (m : Memory) : (s.setMem m).mem = m := rfl
@[simp] theorem State.setMem_v (s : State) (m : Memory) : (s.setMem m).v = s.v := rfl
@[simp] theorem State.setMem_i (s : State) (m : Memory) : (s.setMem m).i = s.i := rfl
@[simp] theorem State.setMem_pc (s : State) (m : Memory) : (s.setMem m).pc = s.pc := rfl
@[simp] theorem State.setMem_stack (s : State) (m : Memory) : (s.setMem m).stack = s.stack := rfl
@[simp] theorem State.setMem_sp (s : State) (m : Memory) : (s.setMem m).sp = s.sp := rfl
@[simp] theorem State.setMem_dt (s : State) (m : Memory) : (s.setMem m).dt = s.dt := rfl
@[simp] theorem State.setMem_st (s : State) (m : Memory) : (s.setMem m).st = s.st := rfl
@[simp] theorem State.setMem_fb (s : State) (m : Memory) : (s.setMem m).fb = s.fb := rfl
@[simp] theorem State.setMem_keys (s : State) (m : Memory) : (s.setMem m).keys = s.keys := rfl
@[simp] theorem State.setMem_redraw (s : State) (m : Memory) : (s.setMem m).redraw = s.redraw := rfl
@[simp] theorem State.setMem_tone (s : State) (m : Memory) : (s.setMem m).tone = s.tone := rfl
@[simp] theorem State.setMem_fault (s : State) (m : Memory) : (s.setMem m).fault = s.fault := rfl
@[simp] theorem State.setMem_result (s : State) (m : Memory) : (s.setMem m).result = s.result := rfl
@[simp] theorem State.setMem_rndDraws (s : State) (m : Memory) : (s.setMem m).rndDraws = s.rndDraws := rfl

/-! ### setFb -/

@[simp] theorem State.setFb_mem (s : State) (fb : FrameBuffer) : (s.setFb fb).mem = s.mem := rfl
@[simp] theorem State.setFb_v (s : State) (fb : FrameBuffer) : (s.setFb fb).v = s.v := rfl
@[simp] theorem State.setFb_i (s : State) (fb : FrameBuffer) : (s.setFb fb).i = s.i := rfl
@[simp] theorem State.setFb_pc (s : State) (fb : FrameBuffer) : (s.setFb fb).pc = s.pc := rfl
@[simp] theorem State.setFb_stack (s : State) (fb : FrameBuffer) : (s.setFb fb).stack = s.stack := rfl
@[simp] theorem State.setFb_sp (s : State) (fb : FrameBuffer) : (s.setFb fb).sp = s.sp := rfl
@[simp] theorem State.setFb_dt (s : State) (fb : FrameBuffer) : (s.setFb fb).dt = s.dt := rfl
@[simp] theorem State.setFb_st (s : State) (fb : FrameBuffer) : (s.setFb fb).st = s.st := rfl
@[simp] theorem State.setFb_fb (s : State) (fb : FrameBuffer) : (s.setFb fb).fb = fb := rfl
@[simp] theorem State.setFb_keys (s : State) (fb : FrameBuffer) : (s.setFb fb).keys = s.keys := rfl
@[simp] theorem State.setFb_redraw (s : State) (fb : FrameBuffer) : (s.setFb fb).redraw = s.redraw := rfl
@[simp] theorem State.setFb_tone (s : State) (fb : FrameBuffer) : (s.setFb fb).tone = s.tone := rfl
@[simp] theorem State.setFb_fault (s : State) (fb : FrameBuffer) : (s.setFb fb).fault = s.fault := rfl
@[simp] theorem State.setFb_result (s : State) (fb : FrameBuffer) : (s.setFb fb).result = s.result := rfl
@[simp] theorem State.setFb_rndDraws (s : State) (fb : FrameBuffer) : (s.setFb fb).rndDraws = s.rndDraws := rfl

/-! ### requestRedraw -/

@[simp] theorem State.requestRedraw_mem (s : State) : (s.requestRedraw).mem = s.mem := rfl
@[simp] theorem State.requestRedraw_v (s : State) : (s.requestRedraw).v = s.v := rfl
@[simp] theorem State.requestRedraw_i (s : State) : (s.requestRedraw).i = s.i := rfl
@[simp] theorem State.requestRedraw_pc (s : State) : (s.requestRedraw).pc = s.pc := rfl
@[simp] theorem State.requestRedraw_stack (s : State) : (s.requestRedraw).stack = s.stack := rfl
@[simp] theorem State.requestRedraw_sp (s : State) : (s.requestRedraw).sp = s.sp := rfl
@[simp] theorem State.requestRedraw_dt (s : State) : (s.requestRedraw).dt = s.dt := rfl
@[simp] theorem State.requestRedraw_st (s : State) : (s.requestRedraw).st = s.st := rfl
@[simp] theorem State.requestRedraw_fb (s : State) : (s.requestRedraw).fb = s.fb := rfl
@[simp] theorem State.requestRedraw_keys (s : State) : (s.requestRedraw).keys = s.keys := rfl
@[simp] theorem State.requestRedraw_redraw (s : State) : (s.requestRedraw).redraw = true := rfl
@[simp] theorem State.requestRedraw_tone (s : State) : (s.requestRedraw).tone = s.tone := rfl
@[simp] theorem State.requestRedraw_fault (s : State) : (s.requestRedraw).fault = s.fault := rfl
@[simp] theorem State.requestRedraw_result (s : State) : (s.requestRedraw).result = s.result := rfl
@[simp] theorem State.requestRedraw_rndDraws (s : State) : (s.requestRedraw).rndDraws = s.rndDraws := rfl

/-! ### setDt -/

@[simp] theorem State.setDt_mem (s : State) (b : Byte) : (s.setDt b).mem = s.mem := rfl
@[simp] theorem State.setDt_v (s : State) (b : Byte) : (s.setDt b).v = s.v := rfl
@[simp] theorem State.setDt_i (s : State) (b : Byte) : (s.setDt b).i = s.i := rfl
@[simp] theorem State.setDt_pc (s : State) (b : Byte) : (s.setDt b).pc = s.pc := rfl
@[simp] theorem State.setDt_stack (s : State) (b : Byte) : (s.setDt b).stack = s.stack := rfl
@[simp] theorem State.setDt_sp (s : State) (b : Byte) : (s.setDt b).sp = s.sp := rfl
@[simp] theorem State.setDt_dt (s : State) (b : Byte) : (s.setDt b).dt = b := rfl
@[simp] theorem State.setDt_st (s : State) (b : Byte) : (s.setDt b).st = s.st := rfl
@[simp] theorem State.setDt_fb (s : State) (b : Byte) : (s.setDt b).fb = s.fb := rfl
@[simp] theorem State.setDt_keys (s : State) (b : Byte) : (s.setDt b).keys = s.keys := rfl
@[simp] theorem State.setDt_redraw (s : State) (b : Byte) : (s.setDt b).redraw = s.redraw := rfl
@[simp] theorem State.setDt_tone (s : State) (b : Byte) : (s.setDt b).tone = s.tone := rfl
@[simp] theorem State.setDt_fault (s : State) (b : Byte) : (s.setDt b).fault = s.fault := rfl
@[simp] theorem State.setDt_result (s : State) (b : Byte) : (s.setDt b).result = s.result := rfl
@[simp] theorem State.setDt_rndDraws (s : State) (b : Byte) : (s.setDt b).rndDraws = s.rndDraws := rfl

/-! ### setSt -/

@[simp] theorem State.setSt_mem (s : State) (b : Byte) : (s.setSt b).mem = s.mem := rfl
@[simp] theorem State.setSt_v (s : State) (b : Byte) : (s.setSt b).v = s.v := rfl
@[simp] theorem State.setSt_i (s : State) (b : Byte) : (s.setSt b).i = s.i := rfl
@[simp] theorem State.setSt_pc (s : State) (b : Byte) : (s.setSt b).pc = s.pc := rfl
@[simp] theorem State.setSt_stack (s : State) (b : Byte) : (s.setSt b).stack = s.stack := rfl
@[simp] theorem State.setSt_sp (s : State) (b : Byte) : (s.setSt b).sp = s.sp := rfl
@[simp] theorem State.setSt_dt (s : State) (b : Byte) : (s.setSt b).dt = s.dt := rfl
@[simp] theorem State.setSt_st (s : State) (b : Byte) : (s.setSt b).st = b := rfl
@[simp] theorem State.setSt_fb (s : State) (b : Byte) : (s.setSt b).fb = s.fb := rfl
@[simp] theorem State.setSt_keys (s : State) (b : Byte) : (s.setSt b).keys = s.keys := rfl
@[simp] theorem State.setSt_redraw (s : State) (b : Byte) : (s.setSt b).redraw = s.redraw := rfl
@[simp] theorem State.setSt_tone (s : State) (b : Byte) : (s.setSt b).tone = s.tone := rfl
@[simp] theorem State.setSt_fault (s : State) (b : Byte) : (s.setSt b).fault = s.fault := rfl
@[simp] theorem State.setSt_result (s : State) (b : Byte) : (s.setSt b).result = s.result := rfl
@[simp] theorem State.setSt_rndDraws (s : State) (b : Byte) : (s.setSt b).rndDraws = s.rndDraws := rfl

/-! ### countDraw -/

@[simp] theorem State.countDraw_mem (s : State) : (s.countDraw).mem = s.mem := rfl
@[simp] theorem State.countDraw_v (s : State) : (s.countDraw).v = s.v := rfl
@[simp] theorem State.countDraw_i (s : State) : (s.countDraw).i = s.i := rfl
@[simp] theorem State.countDraw_pc (s : State) : (s.countDraw).pc = s.pc := rfl
@[simp] theorem State.countDraw_stack (s : State) : (s.countDraw).stack = s.stack := rfl
@[simp] theorem State.countDraw_sp (s : State) : (s.countDraw).sp = s.sp := rfl
@[simp] theorem State.countDraw_dt (s : State) : (s.countDraw).dt = s.dt := rfl
@[simp] theorem State.countDraw_st (s : State) : (s.countDraw).st = s.st := rfl
@[simp] theorem State.countDraw_fb (s : State) : (s.countDraw).fb = s.fb := rfl
@[simp] theorem State.countDraw_keys (s : State) : (s.countDraw).keys = s.keys := rfl
@[simp] theorem State.countDraw_redraw (s : State) : (s.countDraw).redraw = s.redraw := rfl
@[simp] theorem State.countDraw_tone (s : State) : (s.countDraw).tone = s.tone := rfl
@[simp] theorem State.countDraw_fault (s : State) : (s.countDraw).fault = s.fault := rfl
@[simp] theorem State.countDraw_result (s : State) : (s.countDraw).result = s.result := rfl
@[simp] theorem State.countDraw_rndDraws (s : State) : (s.countDraw).rndDraws = s.rndDraws + 1 := rfl

/-! ### pushCall -/

@[simp] theorem State.pushCall_mem (s : State) (w : Word) : (s.pushCall w).mem = s.mem := rfl
@[simp] theorem State.pushCall_v (s : State) (w : Word) : (s.pushCall w).v = s.v := rfl
@[simp] theorem State.pushCall_i (s : State) (w : Word) : (s.pushCall w).i = s.i := rfl
@[simp] theorem State.pushCall_pc (s : State) (w : Word) : (s.pushCall w).pc = w := rfl
@[simp] theorem State.pushCall_stack (s : State) (w : Word) : (s.pushCall w).stack = s.stack.set (s.sp + 1).toNat s.pc (s.sp + 1).isLt := rfl
@[simp] theorem State.pushCall_sp (s : State) (w : Word) : (s.pushCall w).sp = s.sp + 1 := rfl
@[simp] theorem State.pushCall_dt (s : State) (w : Word) : (s.pushCall w).dt = s.dt := rfl
@[simp] theorem State.pushCall_st (s : State) (w : Word) : (s.pushCall w).st = s.st := rfl
@[simp] theorem State.pushCall_fb (s : State) (w : Word) : (s.pushCall w).fb = s.fb := rfl
@[simp] theorem State.pushCall_keys (s : State) (w : Word) : (s.pushCall w).keys = s.keys := rfl
@[simp] theorem State.pushCall_redraw (s : State) (w : Word) : (s.pushCall w).redraw = s.redraw := rfl
@[simp] theorem State.pushCall_tone (s : State) (w : Word) : (s.pushCall w).tone = s.tone := rfl
@[simp] theorem State.pushCall_fault (s : State) (w : Word) : (s.pushCall w).fault = s.fault := rfl
@[simp] theorem State.pushCall_result (s : State) (w : Word) : (s.pushCall w).result = s.result := rfl
@[simp] theorem State.pushCall_rndDraws (s : State) (w : Word) : (s.pushCall w).rndDraws = s.rndDraws := rfl

/-! ### popCall -/

@[simp] theorem State.popCall_mem (s : State) : (s.popCall).mem = s.mem := rfl
@[simp] theorem State.popCall_v (s : State) : (s.popCall).v = s.v := rfl
@[simp] theorem State.popCall_i (s : State) : (s.popCall).i = s.i := rfl
@[simp] theorem State.popCall_pc (s : State) : (s.popCall).pc = s.slot s.sp + 2 := rfl
@[simp] theorem State.popCall_stack (s : State) : (s.popCall).stack = s.stack := rfl
@[simp] theorem State.popCall_sp (s : State) : (s.popCall).sp = s.sp - 1 := rfl
@[simp] theorem State.popCall_dt (s : State) : (s.popCall).dt = s.dt := rfl
@[simp] theorem State.popCall_st (s : State) : (s.popCall).st = s.st := rfl
@[simp] theorem State.popCall_fb (s : State) : (s.popCall).fb = s.fb := rfl
@[simp] theorem State.popCall_keys (s : State) : (s.popCall).keys = s.keys := rfl
@[simp] theorem State.popCall_redraw (s : State) : (s.popCall).redraw = s.redraw := rfl
@[simp] theorem State.popCall_tone (s : State) : (s.popCall).tone = s.tone := rfl
@[simp] theorem State.popCall_fault (s : State) : (s.popCall).fault = s.fault := rfl
@[simp] theorem State.popCall_result (s : State) : (s.popCall).result = s.result := rfl
@[simp] theorem State.popCall_rndDraws (s : State) : (s.popCall).rndDraws = s.rndDraws := rfl

/-! ### raise -/

@[simp] theorem State.raise_mem (s : State) (k : Fault) (info : Nat) : (State.raise k info s).mem = s.mem := rfl
@[simp] theorem State.raise_v (s : State) (k : Fault) (info : Nat) : (State.raise k info s).v = s.v := rfl
@[simp] theorem State.raise_i (s : State) (k : Fault) (info : Nat) : (State.raise k info s).i = s.i := rfl
@[simp] theorem State.raise_pc (s : State) (k : Fault) (info : Nat) : (State.raise k info s).pc = s.pc := rfl
@[simp] theorem State.raise_stack (s : State) (k : Fault) (info : Nat) : (State.raise k info s).stack = s.stack := rfl
@[simp] theorem State.raise_sp (s : State) (k : Fault) (info : Nat) : (State.raise k info s).sp = s.sp := rfl
@[simp] theorem State.raise_dt (s : State) (k : Fault) (info : Nat) : (State.raise k info s).dt = s.dt := rfl
@[simp] theorem State.raise_st (s : State) (k : Fault) (info : Nat) : (State.raise k info s).st = s.st := rfl
@[simp] theorem State.raise_fb (s : State) (k : Fault) (info : Nat) : (State.raise k info s).fb = s.fb := rfl
@[simp] theorem State.raise_keys (s : State) (k : Fault) (info : Nat) : (State.raise k info s).keys = s.keys := rfl
@[simp] theorem State.raise_redraw (s : State) (k : Fault) (info : Nat) : (State.raise k info s).redraw = s.redraw := rfl
@[simp] theorem State.raise_tone (s : State) (k : Fault) (info : Nat) : (State.raise k info s).tone = s.tone := rfl
@[simp] theorem State.raise_fault (s : State) (k : Fault) (info : Nat) : (State.raise k info s).fault = some k := rfl
@[simp] theorem State.raise_result (s : State) (k : Fault) (info : Nat) : (State.raise k info s).result = .fatal k (some info) := rfl
@[simp] theorem State.raise_rndDraws (s : State) (k : Fault) (info : Nat) : (State.raise k info s).rndDraws = s.rndDraws := rfl

/-! ### report -/

@[simp] theorem State.report_mem (s : State) (r : StepResult) : (s.report r).mem = s.mem := rfl
@[simp] theorem State.report_v (s : State) (r : StepResult) : (s.report r).v = s.v := rfl
@[simp] theorem State.report_i (s : State) (r : StepResult) : (s.report r).i = s.i := rfl
@[simp] theorem State.report_pc (s : State) (r : StepResult) : (s.report r).pc = s.pc := rfl
@[simp] theorem State.report_stack (s : State) (r : StepResult) : (s.report r).stack = s.stack := rfl
@[simp] theorem State.report_sp (s : State) (r : StepResult) : (s.report r).sp = s.sp := rfl
@[simp] theorem State.report_dt (s : State) (r : StepResult) : (s.report r).dt = s.dt := rfl
@[simp] theorem State.report_st (s : State) (r : StepResult) : (s.report r).st = s.st := rfl
@[simp] theorem State.report_fb (s : State) (r : StepResult) : (s.report r).fb = s.fb := rfl
@[simp] theorem State.report_keys (s : State) (r : StepResult) : (s.report r).keys = s.keys := rfl
@[simp] theorem State.report_redraw (s : State) (r : StepResult) : (s.report r).redraw = s.redraw := rfl
@[simp] theorem State.report_tone (s : State) (r : StepResult) : (s.report r).tone = s.tone := rfl
@[simp] theorem State.report_fault (s : State) (r : StepResult) : (s.report r).fault = s.fault := rfl
@[simp] theorem State.report_result (s : State) (r : StepResult) : (s.report r).result = r := rfl
@[simp] theorem State.report_rndDraws (s : State) (r : StepResult) : (s.report r).rndDraws = s.rndDraws := rfl

/-! ### clearFlags -/

@[simp] theorem State.clearFlags_mem (s : State) : (s.clearFlags).mem = s.mem := rfl
@[simp] theorem State.clearFlags_v (s : State) : (s.clearFlags).v = s.v := rfl
@[simp] theorem State.clearFlags_i (s : State) : (s.clearFlags).i = s.i := rfl
@[simp] theorem State.clearFlags_pc (s : State) : (s.clearFlags).pc = s.pc := rfl
@[simp] theorem State.clearFlags_stack (s : State) : (s.clearFlags).stack = s.stack := rfl
@[simp] theorem State.clearFlags_sp (s : State) : (s.clearFlags).sp = s.sp := rfl
@[simp] theorem State.clearFlags_dt (s : State) : (s.clearFlags).dt = s.dt := rfl
@[simp] theorem State.clearFlags_st (s : State) : (s.clearFlags).st = s.st := rfl
@[simp] theorem State.clearFlags_fb (s : State) : (s.clearFlags).fb = s.fb := rfl
@[simp] theorem State.clearFlags_keys (s : State) : (s.clearFlags).keys = s.keys := rfl
@[simp] theorem State.clearFlags_redraw (s : State) : (s.clearFlags).redraw = false := rfl
@[simp] theorem State.clearFlags_tone (s : State) : (s.clearFlags).tone = false := rfl
@[simp] theorem State.clearFlags_fault (s : State) : (s.clearFlags).fault = s.fault := rfl
@[simp] theorem State.clearFlags_result (s : State) : (s.clearFlags).result = s.result := rfl
@[simp] theorem State.clearFlags_rndDraws (s : State) : (s.clearFlags).rndDraws = s.rndDraws := rfl

/-! ### decay -/

@[simp] theorem State.decay_mem (s : State) : (s.decay).mem = s.mem := rfl
@[simp] theorem State.decay_v (s : State) : (s.decay).v = s.v := rfl
@[simp] theorem State.decay_i (s : State) : (s.decay).i = s.i := rfl
@[simp] theorem State.decay_pc (s : State) : (s.decay).pc = s.pc := rfl
@[simp] theorem State.decay_stack (s : State) : (s.decay).stack = s.stack := rfl
@[simp] theorem State.decay_sp (s : State) : (s.decay).sp = s.sp := rfl
@[simp] theorem State.decay_dt (s : State) : (s.decay).dt = tick s.dt := rfl
@[simp] theorem State.decay_st (s : State) : (s.decay).st = tick s.st := rfl
@[simp] theorem State.decay_fb (s : State) : (s.decay).fb = s.fb := rfl
@[simp] theorem State.decay_keys (s : State) : (s.decay).keys = s.keys := rfl
@[simp] theorem State.decay_redraw (s : State) : (s.decay).redraw = s.redraw := rfl
@[simp] theorem State.decay_tone (s : State) : (s.decay).tone = (s.tone || s.st != 0) := rfl
@[simp] theorem State.decay_fault (s : State) : (s.decay).fault = s.fault := rfl
@[simp] theorem State.decay_result (s : State) : (s.decay).result = s.result := rfl
@[simp] theorem State.decay_rndDraws (s : State) : (s.decay).rndDraws = s.rndDraws := rfl

/-! ### Readings through the updates that leave them -/

@[simp] theorem State.byteAt_setReg (s : State) (r : Reg) (b : Byte) (a : Nat) : (s.setReg r b).byteAt a = s.byteAt a := rfl
@[simp] theorem State.slot_setReg (s : State) (r : Reg) (b : Byte) (k : BitVec 4) : (s.setReg r b).slot k = s.slot k := rfl
@[simp] theorem State.byteAt_setRegs (s : State) (v : Vector Byte 16) (a : Nat) : (s.setRegs v).byteAt a = s.byteAt a := rfl
@[simp] theorem State.slot_setRegs (s : State) (v : Vector Byte 16) (k : BitVec 4) : (s.setRegs v).slot k = s.slot k := rfl
@[simp] theorem State.reg_setI (s : State) (w : Word) (q : Reg) : (s.setI w).reg q = s.reg q := rfl
@[simp] theorem State.byteAt_setI (s : State) (w : Word) (a : Nat) : (s.setI w).byteAt a = s.byteAt a := rfl
@[simp] theorem State.slot_setI (s : State) (w : Word) (k : BitVec 4) : (s.setI w).slot k = s.slot k := rfl
@[simp] theorem State.reg_setPc (s : State) (w : Word) (q : Reg) : (s.setPc w).reg q = s.reg q := rfl
@[simp] theorem State.byteAt_setPc (s : State) (w : Word) (a : Nat) : (s.setPc w).byteAt a = s.byteAt a := rfl
@[simp] theorem State.slot_setPc (s : State) (w : Word) (k : BitVec 4) : (s.setPc w).slot k = s.slot k := rfl
@[simp] theorem State.reg_advance (s : State) (q : Reg) : (s.advance).reg q = s.reg q := rfl
@[simp] theorem State.byteAt_advance (s : State) (a : Nat) : (s.advance).byteAt a = s.byteAt a := rfl
@[simp] theorem State.slot_advance (s : State) (k : BitVec 4) : (s.advance).slot k = s.slot k := rfl
@[simp] theorem State.reg_skip (s : State) (q : Reg) : (s.skip).reg q = s.reg q := rfl
@[simp] theorem State.byteAt_skip (s : State) (a : Nat) : (s.skip).byteAt a = s.byteAt a := rfl
@[simp] theorem State.slot_skip (s : State) (k : BitVec 4) : (s.skip).slot k = s.slot k := rfl
@[simp] theorem State.reg_setMem (s : State) (m : Memory) (q : Reg) : (s.setMem m).reg q = s.reg q := rfl
@[simp] theorem State.slot_setMem (s : State) (m : Memory) (k : BitVec 4) : (s.setMem m).slot k = s.slot k := rfl
@[simp] theorem State.byteAt_setMem (s : State) (m : Memory) (a : Nat) : (s.setMem m).byteAt a = m.read a := rfl
@[simp] theorem State.reg_setFb (s : State) (fb : FrameBuffer) (q : Reg) : (s.setFb fb).reg q = s.reg q := rfl
@[simp] theorem State.byteAt_setFb (s : State) (fb : FrameBuffer) (a : Nat) : (s.setFb fb).byteAt a = s.byteAt a := rfl
@[simp] theorem State.slot_setFb (s : State) (fb : FrameBuffer) (k : BitVec 4) : (s.setFb fb).slot k = s.slot k := rfl
@[simp] theorem State.reg_requestRedraw (s : State) (q : Reg) : (s.requestRedraw).reg q = s.reg q := rfl
@[simp] theorem State.byteAt_requestRedraw (s : State) (a : Nat) : (s.requestRedraw).byteAt a = s.byteAt a := rfl
@[simp] theorem State.slot_requestRedraw (s : State) (k : BitVec 4) : (s.requestRedraw).slot k = s.slot k := rfl
@[simp] theorem State.reg_setDt (s : State) (b : Byte) (q : Reg) : (s.setDt b).reg q = s.reg q := rfl
@[simp] theorem State.byteAt_setDt (s : State) (b : Byte) (a : Nat) : (s.setDt b).byteAt a = s.byteAt a := rfl
@[simp] theorem State.slot_setDt (s : State) (b : Byte) (k : BitVec 4) : (s.setDt b).slot k = s.slot k := rfl
@[simp] theorem State.reg_setSt (s : State) (b : Byte) (q : Reg) : (s.setSt b).reg q = s.reg q := rfl
@[simp] theorem State.byteAt_setSt (s : State) (b : Byte) (a : Nat) : (s.setSt b).byteAt a = s.byteAt a := rfl
@[simp] theorem State.slot_setSt (s : State) (b : Byte) (k : BitVec 4) : (s.setSt b).slot k = s.slot k := rfl
@[simp] theorem State.reg_countDraw (s : State) (q : Reg) : (s.countDraw).reg q = s.reg q := rfl
@[simp] theorem State.byteAt_countDraw (s : State) (a : Nat) : (s.countDraw).byteAt a = s.byteAt a := rfl
@[simp] theorem State.slot_countDraw (s : State) (k : BitVec 4) : (s.countDraw).slot k = s.slot k := rfl
@[simp] theorem State.reg_pushCall (s : State) (w : Word) (q : Reg) : (s.pushCall w).reg q = s.reg q := rfl
@[simp] theorem State.byteAt_pushCall (s : State) (w : Word) (a : Nat) : (s.pushCall w).byteAt a = s.byteAt a := rfl
@[simp] theorem State.reg_popCall (s : State) (q : Reg) : (s.popCall).reg q = s.reg q := rfl
@[simp] theorem State.byteAt_popCall (s : State) (a : Nat) : (s.popCall).byteAt a = s.byteAt a := rfl
@[simp] theorem State.slot_popCall (s : State) (k : BitVec 4) : (s.popCall).slot k = s.slot k := rfl
@[simp] theorem State.reg_raise (s : State) (k : Fault) (info : Nat) (q : Reg) : (State.raise k info s).reg q = s.reg q := rfl
@[simp] theorem State.byteAt_raise (s : State) (k : Fault) (info : Nat) (a : Nat) : (State.raise k info s).byteAt a = s.byteAt a := rfl
@[simp] theorem State.slot_raise (s : State) (k : Fault) (info : Nat) (j : BitVec 4) : (State.raise k info s).slot j = s.slot j := rfl
@[simp] theorem State.reg_report (s : State) (r : StepResult) (q : Reg) : (s.report r).reg q = s.reg q := rfl
@[simp] theorem State.byteAt_report (s : State) (r : StepResult) (a : Nat) : (s.report r).byteAt a = s.byteAt a := rfl
@[simp] theorem State.slot_report (s : State) (r : StepResult) (k : BitVec 4) : (s.report r).slot k = s.slot k := rfl
@[simp] theorem State.reg_clearFlags (s : State) (q : Reg) : (s.clearFlags).reg q = s.reg q := rfl
@[simp] theorem State.byteAt_clearFlags (s : State) (a : Nat) : (s.clearFlags).byteAt a = s.byteAt a := rfl
@[simp] theorem State.slot_clearFlags (s : State) (k : BitVec 4) : (s.clearFlags).slot k = s.slot k := rfl
@[simp] theorem State.reg_decay (s : State) (q : Reg) : (s.decay).reg q = s.reg q := rfl
@[simp] theorem State.byteAt_decay (s : State) (a : Nat) : (s.decay).byteAt a = s.byteAt a := rfl
@[simp] theorem State.slot_decay (s : State) (k : BitVec 4) : (s.decay).slot k = s.slot k := rfl

end Sys2Proof.Machine
end

