-- ==== Sys2Proof/Laws/Memory.lean ====
section
/-! SUPPORT. What the memory operations do: read after write, and that every write keeps the canonical form. -/

namespace Sys2Proof.Machine

@[simp] theorem Memory.read_nil (a : Nat) : Memory.read [] a = Memory.unlisted a := rfl

theorem Memory.read_cons (c : Host.Cell) (m : Memory) (a : Nat) :
    Memory.read (c :: m) a = if c.1 = a then c.2 else Memory.read m a := rfl

/-- A cell in front, stored or left out, gives its byte at its address and the rest elsewhere. -/
theorem Memory.read_put (a : Nat) (b : Byte) (m : Memory) (a' : Nat) (h : m.read a = Memory.unlisted a) :
    (Memory.cons a b m).read a' = if a' = a then b else m.read a' := by
  unfold Memory.cons
  split_ifs with h1 h2 h2
  · rw [h2, h, h1]
  · rfl
  · simp [Memory.read_cons, h2]
  · simp [Memory.read_cons, Ne.symm h2]

/-- Below every listed address, memory reads as unlisted. -/
theorem Memory.read_below {lo : Nat} {m : Memory} (hm : Memory.wfFrom lo m = true) {a : Nat} (ha : a < lo) :
    m.read a = Memory.unlisted a := by
  induction m generalizing lo with
  | nil => rfl
  | cons c m ih =>
    simp only [Memory.wfFrom, Bool.and_eq_true, decide_eq_true_eq] at hm
    rw [Memory.read_cons, if_neg (by omega), ih hm.2 (by omega)]

/-- A larger lower bound is a stronger form. -/
theorem Memory.wfFrom_mono {lo lo' : Nat} {m : Memory} (hm : Memory.wfFrom lo' m = true) (h : lo ≤ lo') :
    Memory.wfFrom lo m = true := by
  cases m with
  | nil => rfl
  | cons c m =>
    simp only [Memory.wfFrom, Bool.and_eq_true, decide_eq_true_eq] at hm ⊢
    exact ⟨⟨⟨by omega, hm.1.1.2⟩, hm.1.2⟩, hm.2⟩

/-- A read after a write on canonical memory: the byte written at its address, the old byte elsewhere. -/
theorem Memory.read_write_of_wfFrom {lo : Nat} {m : Memory} (hm : Memory.wfFrom lo m = true) (a : Nat) (b : Byte) (a' : Nat) :
    (m.write a b).read a' = if a' = a then b else m.read a' := by
  induction m generalizing lo with
  | nil => exact Memory.read_put a b [] a' rfl
  | cons c m ih =>
    simp only [Memory.wfFrom, Bool.and_eq_true, decide_eq_true_eq] at hm
    unfold Memory.write
    by_cases h1 : a < c.1
    · have hlow : Memory.wfFrom (a + 1) (c :: m) = true := by
        simp only [Memory.wfFrom, Bool.and_eq_true, decide_eq_true_eq]
        exact ⟨⟨⟨h1, hm.1.1.2⟩, hm.1.2⟩, hm.2⟩
      rw [if_pos h1]
      exact Memory.read_put _ _ _ _ (Memory.read_below hlow (by omega))
    rw [if_neg h1]
    by_cases h2 : a = c.1
    · rw [if_pos h2, Memory.read_put _ _ _ _ (Memory.read_below hm.2 (by omega)), Memory.read_cons]
      split_ifs <;> first | rfl | omega
    · rw [if_neg h2, Memory.read_cons, Memory.read_cons, ih hm.2]
      split_ifs <;> first | rfl | omega

/-- A read after a write (spec/20_memory.md R64). -/
theorem Memory.read_write {m : Memory} (hm : m.wf = true) (a : Nat) (b : Byte) (a' : Nat) :
    (m.write a b).read a' = if a' = a then b else m.read a' := Memory.read_write_of_wfFrom hm a b a'

theorem Memory.wfFrom_put {lo a : Nat} {m : Memory} (hm : Memory.wfFrom (a + 1) m = true) (b : Byte) (hlo : lo ≤ a)
    (ha : a < 4096) : Memory.wfFrom lo (Memory.cons a b m) = true := by
  unfold Memory.cons
  split_ifs with h
  · exact Memory.wfFrom_mono hm (by omega)
  · simp only [Memory.wfFrom, Bool.and_eq_true, decide_eq_true_eq]
    exact ⟨⟨⟨hlo, ha⟩, h⟩, hm⟩

theorem Memory.wfFrom_write {lo : Nat} {m : Memory} (hm : Memory.wfFrom lo m = true) {a : Nat} (b : Byte) (hlo : lo ≤ a)
    (ha : a < 4096) : Memory.wfFrom lo (m.write a b) = true := by
  induction m generalizing lo with
  | nil => exact Memory.wfFrom_put rfl b hlo ha
  | cons c m ih =>
    simp only [Memory.wfFrom, Bool.and_eq_true, decide_eq_true_eq] at hm
    unfold Memory.write
    split_ifs with h1 h2
    · refine Memory.wfFrom_put ?_ b hlo ha
      simp only [Memory.wfFrom, Bool.and_eq_true, decide_eq_true_eq]
      exact ⟨⟨⟨h1, hm.1.1.2⟩, hm.1.2⟩, hm.2⟩
    · subst h2
      exact Memory.wfFrom_put hm.2 b hlo ha
    · simp only [Memory.wfFrom, Bool.and_eq_true, decide_eq_true_eq]
      exact ⟨hm.1, ih hm.2 (by omega)⟩

/-- A write to an address of MEM keeps the canonical form. -/
theorem Memory.wf_write {m : Memory} (hm : m.wf = true) {a : Nat} (b : Byte) (ha : a < 4096) : (m.write a b).wf = true :=
  Memory.wfFrom_write hm b (Nat.zero_le a) ha

/-- A run of writes within MEM keeps the canonical form. -/
theorem Memory.wf_writeBytes {m : Memory} (hm : m.wf = true) (bs : List Byte) {a : Nat} (ha : a + bs.length ≤ 4096) :
    (m.writeBytes a bs).wf = true := by
  induction bs generalizing m a with
  | nil => exact hm
  | cons b bs ih =>
    rw [List.length_cons] at ha
    exact ih (Memory.wf_write hm b (by omega)) (by omega)

/-- A read after a run of writes: the byte of the run at its address, the old byte elsewhere. -/
theorem Memory.read_writeBytes {m : Memory} (hm : m.wf = true) (bs : List Byte) {a : Nat} (ha : a + bs.length ≤ 4096)
    (a' : Nat) : (m.writeBytes a bs).read a' = if h : a ≤ a' ∧ a' < a + bs.length then bs[a' - a]'(by omega) else m.read a' := by
  induction bs generalizing m a with
  | nil => simp [Memory.writeBytes]
  | cons b bs ih =>
    rw [List.length_cons] at ha
    rw [Memory.writeBytes, ih (Memory.wf_write hm b (by omega)) (by omega), Memory.read_write hm]
    by_cases h : a' = a
    · subst h; simp
    · by_cases h' : a + 1 ≤ a' ∧ a' < a + 1 + bs.length
      · rw [dif_pos h', dif_pos (by simp; omega), List.getElem_cons, dif_neg (by omega)]
        congr 1
      · rw [dif_neg h', dif_neg (by simp; omega), if_neg h]

/-- An opcode written within MEM keeps the canonical form. -/
theorem Memory.wf_writeOpcode {m : Memory} (hm : m.wf = true) {a : Nat} (op : Word) (ha : a + 1 < 4096) :
    (m.writeOpcode a op).wf = true := Memory.wf_writeBytes hm _ (by simp; omega)

/-- Memory after reset is canonical. -/
theorem Memory.wf_reset : State.reset.mem.wf = true := rfl

end Sys2Proof.Machine
end

