-- ==== Sys2Proof/Laws/Ops.lean ====
section
/-! SUPPORT. For each shared operation, once, everything it can do. -/

namespace Sys2Proof.Machine

/-! ### Registers, stack, skips -/

/-- Reading a register after writing one. -/
theorem State.reg_setReg (s : State) (x : Reg) (b : Byte) (r : Reg) :
    (s.setReg x b).reg r = if r = x then b else s.reg r := by
  show (s.v.set x.val b x.isLt)[r.val] = if r = x then b else s.v[r.val]
  rw [Vector.getElem_set]
  by_cases h : r = x
  · rw [if_pos h, if_pos (congrArg Fin.val h.symm)]
  · rw [if_neg h, if_neg fun e => h (Fin.ext e.symm)]

@[simp] theorem State.reg_setRegs (s : State) (v : Vector Byte 16) (r : Reg) : (s.setRegs v).reg r = v.get r := rfl

/-- After a flag-writing instruction's two writes: the result at x, the flag at VF unless x is VF, the rest as before
(spec/43_alu.md R192). -/
theorem State.reg_setFlagged (s : State) (x : Reg) (flag : Bool) (result : Byte) (r : Reg) :
    (s.setFlagged x flag result).reg r = if r = x then result else if r = Reg.vf then flagByte flag else s.reg r := by
  rw [State.setFlagged, State.reg_setReg, State.reg_setReg]

/-- Everything `skipIf` can do. -/
theorem State.skipIf_eq (s : State) (c : Bool) : s.skipIf c = s.setPc (if c then s.pc + 4 else s.pc + 2) := by
  cases c <;> rfl

/-- Reading a slot after a CALL. -/
theorem State.slot_pushCall (s : State) (w : Word) (k : BitVec 4) :
    (s.pushCall w).slot k = if k = s.sp + 1 then s.pc else s.slot k := by
  show (s.stack.set (s.sp + 1).toNat s.pc (s.sp + 1).isLt)[k.toNat] = if k = s.sp + 1 then s.pc else s.stack[k.toNat]
  rw [Vector.getElem_set]
  by_cases h : k = s.sp + 1
  · subst h; simp
  · rw [if_neg h, if_neg]
    exact fun e => h (BitVec.eq_of_toNat_eq e.symm)

/-- The loop of Fx65 after k rounds: the registers below k loaded, the others kept. -/
theorem State.getElem_loadedBelow (s : State) (k : Nat) (hk : k ≤ 16) (r : Nat) (hr : r < 16) :
    (s.loadedBelow k hk)[r] = if r < k then s.byteAt (s.i.toNat + r) else s.v[r] := by
  induction k with
  | zero => rfl
  | succ k ih =>
    rw [State.loadedBelow, Vector.getElem_set, ih]
    by_cases h : k = r
    · subst h; simp
    · rw [if_neg h]
      split_ifs <;> first | rfl | omega

/-- The registers after Fx65: loaded up to x, kept above (spec/44_index_memory.md R236). -/
theorem State.get_regsLoaded (s : State) (x r : Reg) :
    (s.regsLoaded x).get r = if r ≤ x then s.byteAt (s.i.toNat + r.val) else s.reg r := by
  have h := State.getElem_loadedBelow s (x.val + 1) x.isLt r.val r.isLt
  simp only [Nat.lt_succ_iff] at h
  exact h

/-- Fx55 stores x + 1 bytes (spec/44_index_memory.md R235). -/
@[simp] theorem State.length_regsUpTo (s : State) (x : Reg) : (s.regsUpTo x).length = x.val + 1 := by
  simp [State.regsUpTo]

/-- Byte k of what Fx55 stores is V[k]. -/
theorem State.getElem_regsUpTo (s : State) (x : Reg) (k : Nat) (h : k < (s.regsUpTo x).length) :
    (s.regsUpTo x)[k] = s.reg ⟨k, by rw [State.length_regsUpTo] at h; omega⟩ := by
  simp only [State.regsUpTo, List.getElem_take, Vector.getElem_toList]
  rfl

/-! ### Checks that may raise -/

/-- Everything the bounds check can do. -/
theorem withinMemory_next {last : Nat} {s t : State} {body : State → Answer} (h : withinMemory last s body = .next t) :
    (last < 4096 ∧ body s = .next t) ∨ (4096 ≤ last ∧ t = s.raise .addressOutOfRange last) := by
  unfold withinMemory at h
  split_ifs at h with hl
  · exact .inl ⟨hl, h⟩
  · exact .inr ⟨by simpa using hl, by cases h; rfl⟩

theorem withinMemory_of_lt {last : Nat} (s : State) (body : State → Answer) (h : last < 4096) :
    withinMemory last s body = body s := if_pos h

theorem withinMemory_of_le {last : Nat} (s : State) (body : State → Answer) (h : 4096 ≤ last) :
    withinMemory last s body = .next (s.raise .addressOutOfRange last) := if_neg (by simpa using h)

/-- Everything the key-number check can do. -/
theorem withKey_next {x : Reg} {s t : State} {body : Bool → State → Answer} (h : withKey x s body = .next t) :
    (∃ hk : (s.reg x).toNat < 16, body (s.keys.get ⟨(s.reg x).toNat, hk⟩) s = .next t) ∨
      (16 ≤ (s.reg x).toNat ∧ t = s.raise .keyOutOfRange (s.reg x).toNat) := by
  unfold withKey at h
  split_ifs at h with hk
  · exact .inl ⟨hk, h⟩
  · exact .inr ⟨by omega, by cases h; rfl⟩

/-! ### Pixels -/

/-- Reading a pixel after a flip inside the grid. -/
theorem FrameBuffer.pixel_flip (fb : FrameBuffer) {row col : Nat} (hr : row < 32) (hc : col < 64) (r c : Nat) :
    (FrameBuffer.flip fb row col).pixel r c =
      if r = row ∧ c = col then !(FrameBuffer.pixel fb row col) else FrameBuffer.pixel fb r c := by
  have hflip : FrameBuffer.flip fb row col = fb.set row (fb[row].set col (!fb[row][col]) hc) hr := dif_pos ⟨hr, hc⟩
  have hpix : FrameBuffer.pixel fb row col = fb[row][col] := dif_pos ⟨hr, hc⟩
  rw [hflip, hpix]
  unfold FrameBuffer.pixel
  by_cases h : r < 32 ∧ c < 64
  · rw [dif_pos h, dif_pos h]
    by_cases h1 : r = row
    · subst h1
      by_cases h2 : c = col
      · subst h2; simp
      · simp [h2, Ne.symm h2]
    · simp [h1, Ne.symm h1]
  · rw [dif_neg h, dif_neg h, if_neg]
    rintro ⟨e1, e2⟩
    exact h ⟨e1 ▸ hr, e2 ▸ hc⟩

@[simp] theorem FrameBuffer.pixel_blank (r c : Nat) : FrameBuffer.blank.pixel r c = false := by
  unfold FrameBuffer.pixel FrameBuffer.blank
  split <;> simp

/-! ### Bytes and words -/

/-- The two bytes of a word make the word (spec/20_memory.md R65). -/
@[simp] theorem opcodeOf_bytes (op : Word) : opcodeOf (highByte op) (lowByte op) = op := by
  unfold opcodeOf highByte lowByte
  apply BitVec.eq_of_getLsbD_eq
  intro k hk
  rw [BitVec.getLsbD_append]
  by_cases h : k < 8
  · simp [h]
  · have : k - 8 < 8 := by omega
    have e : 8 + (k - 8) = k := by omega
    simp [h, this, e]

/-- The opcode's number is high byte times 256 plus low byte (spec/20_memory.md R65). -/
theorem opcodeOf_toNat (hi lo : Byte) : (opcodeOf hi lo).toNat = hi.toNat * 256 + lo.toNat := by
  unfold opcodeOf
  rw [BitVec.toNat_append, ← Nat.shiftLeft_add_eq_or_of_lt lo.isLt, Nat.shiftLeft_eq]

/-! ### The step -/

/-- A timer loses 1 if it is above 0. -/
theorem tick_toNat (b : Byte) : (tick b).toNat = b.toNat - 1 := by
  unfold tick
  split_ifs with h
  · simp [h]
  · have : b.toNat ≠ 0 := fun e => h (BitVec.eq_of_toNat_eq e)
    bv_omega

/-- Everything the end of a step can do. -/
theorem finishStep_next {a : Answer} {t : State} (h : finishStep a = .next t) :
    ∃ u, a = .next u ∧ ((u.fault.isSome = true ∧ t = u) ∨ (u.fault = none ∧ t = u.decay.report .ok)) := by
  unfold finishStep at h
  split at h
  · rename_i u
    split_ifs at h with hf
    · exact ⟨u, rfl, .inl ⟨hf, by cases h; rfl⟩⟩
    · exact ⟨u, rfl, .inr ⟨by simpa using hf, by cases h; rfl⟩⟩
  · cases h
  · cases h

/-- Everything a step can do: the latch, a fetch past the end, an unknown opcode, or an instruction
(spec/40_cycle.md R120, spec/60_exceptions.md R310). -/
theorem step_cases {s t : State} (h : step s = .next t) :
    (∃ k, s.fault = some k ∧ t = s.report (.fatal k none)) ∨
      (s.fault = none ∧ s.fetch = none ∧ t = s.clearFlags.raise .addressOutOfRange s.pc.toNat) ∨
      (∃ op e, s.fault = none ∧ s.fetch = some op ∧ decodeOp op = .error e ∧
        t = s.clearFlags.decay.report (.unknownOpcode op s.pc)) ∨
      (∃ op i, s.fault = none ∧ s.fetch = some op ∧ decodeOp op = .ok i ∧ finishStep (exec i s.clearFlags) = .next t) := by
  unfold step cycle at h
  split at h
  · rename_i k hk
    exact .inl ⟨k, hk, by cases h; rfl⟩
  · rename_i hn
    have hfetch : s.clearFlags.fetch = s.fetch := rfl
    unfold runFetched at h
    rw [hfetch] at h
    split at h
    · rename_i op hop
      unfold runOpcode at h
      split at h
      · rename_i i hi
        exact .inr (.inr (.inr ⟨op, i, hn, hop, hi, h⟩))
      · rename_i e he
        exact .inr (.inr (.inl ⟨op, e, hn, hop, he, by cases h; rfl⟩))
    · rename_i hop
      exact .inr (.inl ⟨hn, hop, by cases h; rfl⟩)

end Sys2Proof.Machine
end

