-- ==== Sys2Proof/Laws/Display.lean ====
section
/-! SUPPORT. What drawing does to each cell and to the hit flag, from one pixel up to a whole sprite. -/

namespace Sys2Proof.Machine

/-- One sprite pixel flips its cell of the grid if its bit is 1. -/
theorem pixel_drawPixel (bit : Bool) (py px : Nat) (p : FrameBuffer × Bool) {r c : Nat} (hr : r < 32) (hc : c < 64) :
    (drawPixel bit py px p).1.pixel r c = (p.1.pixel r c != (bit && decide (r = py ∧ c = px))) := by
  unfold drawPixel
  by_cases e : r = py ∧ c = px
  · obtain ⟨rfl, rfl⟩ := e
    cases bit <;> simp [hr, hc, FrameBuffer.pixel_flip, Config.fbWidth, Config.fbHeight]
  · split_ifs with h
    · simp only [Bool.and_eq_true, decide_eq_true_eq, Config.fbWidth, Config.fbHeight] at h
      rw [FrameBuffer.pixel_flip _ h.2 h.1.2, if_neg e]
      simp [e]
    · simp [e]

/-- One sprite pixel hits if its bit is 1 and its cell of the grid was set. -/
theorem hit_drawPixel (bit : Bool) (py px : Nat) (p : FrameBuffer × Bool) :
    (drawPixel bit py px p).2 = true ↔ p.2 = true ∨ (bit = true ∧ py < 32 ∧ px < 64 ∧ p.1.pixel py px = true) := by
  unfold drawPixel
  by_cases h : bit = true ∧ px < 64 ∧ py < 32
  · simp [h, Config.fbWidth, Config.fbHeight]
  · rw [if_neg (by simpa [Config.fbWidth, Config.fbHeight, and_assoc] using h)]
    exact ⟨.inl, fun h' => h'.elim id fun g => absurd ⟨g.1, g.2.2.1, g.2.1⟩ h⟩

/-- The first `k` columns of a sprite row flip the cells under their 1 bits. -/
theorem pixel_drawColumns (b : Byte) (py x0 : Nat) {k : Nat} (hk : k ≤ 8) (p : FrameBuffer × Bool) {r c : Nat} (hr : r < 32)
    (hc : c < 64) :
    (drawColumns b py x0 k p).1.pixel r c =
      (p.1.pixel r c != (decide (r = py ∧ x0 ≤ c ∧ c < x0 + k) && b.getLsbD (7 - (c - x0)))) := by
  induction k with
  | zero => rw [decide_eq_false (by omega), Bool.false_and, Bool.bne_false]; rfl
  | succ k ih =>
    rw [drawColumns, pixel_drawPixel _ _ _ _ hr hc, ih (by omega), spriteBit]
    by_cases h : r = py ∧ c = x0 + k
    · obtain ⟨rfl, rfl⟩ := h
      simp
    · have e : (r = py ∧ x0 ≤ c ∧ c < x0 + (k + 1)) ↔ (r = py ∧ x0 ≤ c ∧ c < x0 + k) := by omega
      simp only [e, decide_eq_false h, Bool.and_false, Bool.bne_false]

/-- The first `k` columns of a sprite row hit if a cell of the grid under one of their 1 bits was set. -/
theorem hit_drawColumns (b : Byte) (py x0 : Nat) {k : Nat} (hk : k ≤ 8) (p : FrameBuffer × Bool) :
    (drawColumns b py x0 k p).2 = true ↔
      p.2 = true ∨ (py < 32 ∧ ∃ c < 64, x0 ≤ c ∧ c < x0 + k ∧ b.getLsbD (7 - (c - x0)) = true ∧ p.1.pixel py c = true) := by
  induction k with
  | zero => simp [drawColumns]; omega
  | succ k ih =>
    rw [drawColumns, hit_drawPixel, ih (by omega), spriteBit]
    constructor
    · rintro ((h | ⟨h1, c, h2, h3, h4, h5, h6⟩) | ⟨h1, h2, h3, h4⟩)
      · exact .inl h
      · exact .inr ⟨h1, c, h2, h3, by omega, h5, h6⟩
      · rw [pixel_drawColumns _ _ _ (by omega) _ h2 h3, decide_eq_false (by omega), Bool.false_and, Bool.bne_false] at h4
        exact .inr ⟨h2, x0 + k, h3, by omega, by omega, by simpa using h1, h4⟩
    · rintro (h | ⟨h1, c, h2, h3, h4, h5, h6⟩)
      · exact .inl (.inl h)
      · by_cases e : c = x0 + k
        · subst e
          refine .inr ⟨by simpa using h5, h1, h2, ?_⟩
          rw [pixel_drawColumns _ _ _ (by omega) _ h1 h2, decide_eq_false (by omega), Bool.false_and, Bool.bne_false]
          exact h6
        · exact .inl (.inr ⟨h1, c, h2, h3, by omega, h5, h6⟩)

end Sys2Proof.Machine
end

