-- ==== Sys2Proof/Laws/Exec.lean ====
section
/-! SUPPORT. Everything the execute phase can do to PC, the latch and the host's ports, over all instructions at once: it raises
what the table says and nothing else, or it completes with PC by the table of classes. -/

namespace Sys2Proof.Machine

/-- The result of an instruction that did not raise: PC by its class, the latch, the step result, TONE and KEYS untouched. -/
def Completes (i : Instr) (s t : State) : Prop :=
  raises s i = none ∧ t.pc = pcAfter s i ∧ t.fault = s.fault ∧ t.result = s.result ∧ t.tone = s.tone ∧ t.keys = s.keys

/-- A skip completes with PC by its condition. -/
theorem completes_skipIf {i : Instr} {s : State} {c : Bool} (hr : raises s i = none) (hp : pcAfter s i = pcSkip s c) :
    Completes i s (s.skipIf c) := by
  rw [State.skipIf_eq]
  exact ⟨hr, hp.symm, rfl, rfl, rfl, rfl⟩

/-- `LD Vx, K` finds a key exactly when one is down. -/
theorem isSome_lowestKey (s : State) : s.lowestKey.isSome = s.anyKey := by simp [State.lowestKey, State.anyKey]

/-- What an instruction that answers `t` has done (spec/60_exceptions.md R305, R309, spec/40_cycle.md R126). -/
theorem exec_cases {i : Instr} {s t : State} (h : exec i s = .next t) :
    (∃ kind info, raises s i = some (kind, info) ∧ t = s.raise kind info) ∨ Completes i s t := by
  cases i with
  | ret =>
    simp only [exec, execRet] at h
    split_ifs at h with hs
    · exact .inl ⟨_, _, if_pos hs, by cases h; rfl⟩
    · cases h
      exact .inr ⟨if_neg hs, rfl, rfl, rfl, rfl, rfl⟩
  | call nnn =>
    simp only [exec, execCall] at h
    split_ifs at h with hs
    · exact .inl ⟨_, _, if_pos hs, by cases h; rfl⟩
    · cases h
      exact .inr ⟨if_neg hs, rfl, rfl, rfl, rfl, rfl⟩
  | ldBcd x =>
    simp only [exec, execLdBcd] at h
    rcases withinMemory_next h with ⟨hl, hb⟩ | ⟨hl, rfl⟩
    · cases hb
      exact .inr ⟨if_neg (by omega), rfl, rfl, rfl, rfl, rfl⟩
    · exact .inl ⟨_, _, if_pos (by omega), rfl⟩
  | storeRegs x =>
    simp only [exec, execStoreRegs] at h
    rcases withinMemory_next h with ⟨hl, hb⟩ | ⟨hl, rfl⟩
    · cases hb
      exact .inr ⟨if_neg (by omega), rfl, rfl, rfl, rfl, rfl⟩
    · exact .inl ⟨_, _, if_pos (by omega), rfl⟩
  | loadRegs x =>
    simp only [exec, execLoadRegs] at h
    rcases withinMemory_next h with ⟨hl, hb⟩ | ⟨hl, rfl⟩
    · cases hb
      exact .inr ⟨if_neg (by omega), by simp [pcAfter], by simp, by simp, by simp, by simp⟩
    · exact .inl ⟨_, _, if_pos (by omega), rfl⟩
  | drw x y n =>
    simp only [exec, execDrw] at h
    split_ifs at h with hn
    · cases h
      exact .inr ⟨if_neg (by omega), rfl, rfl, rfl, rfl, rfl⟩
    · rcases withinMemory_next h with ⟨hl, hb⟩ | ⟨hl, rfl⟩
      · cases hb
        exact .inr ⟨if_neg (by omega), rfl, rfl, rfl, rfl, rfl⟩
      · exact .inl ⟨_, _, if_pos (by omega), rfl⟩
  | skp x =>
    simp only [exec, execSkp] at h
    rcases withKey_next h with ⟨hk, hb⟩ | ⟨hl, rfl⟩
    · cases hb
      exact .inr (completes_skipIf (if_neg (by omega)) (by simp [pcAfter, State.keyDown, hk, Vector.get]))
    · exact .inl ⟨_, _, if_pos (by omega), rfl⟩
  | sknp x =>
    simp only [exec, execSknp] at h
    rcases withKey_next h with ⟨hk, hb⟩ | ⟨hl, rfl⟩
    · cases hb
      exact .inr (completes_skipIf (if_neg (by omega)) (by simp [pcAfter, State.keyDown, hk, Vector.get]))
    · exact .inl ⟨_, _, if_pos (by omega), rfl⟩
  | ldKey x =>
    have hk := isSome_lowestKey s
    simp only [exec, execLdKey] at h
    split at h
    · rename_i k hk'
      cases h
      rw [hk'] at hk
      exact .inr ⟨rfl, by simp [pcAfter, ← hk], rfl, rfl, rfl, rfl⟩
    · rename_i hk'
      cases h
      rw [hk'] at hk
      exact .inr ⟨rfl, by simp [pcAfter, ← hk], rfl, rfl, rfl, rfl⟩
  | seImm x kk | sneImm x kk | seReg x y | sneReg x y =>
    cases h
    exact .inr (completes_skipIf rfl rfl)
  | cls | jp _ | ldImm _ _ | addImm _ _ | ldReg _ _ | orReg _ _ | andReg _ _ | xorReg _ _ | addReg _ _ | subReg _ _
  | shr _ _ | subn _ _ | shl _ _ | ldI _ | jpV0 _ | rnd _ _ | ldFromDt _ | ldDt _ | ldSt _ | addI _ | ldFont _ =>
    cases h
    exact .inr ⟨rfl, rfl, rfl, rfl, rfl, rfl⟩

end Sys2Proof.Machine
end

