-- ==== Sys2Proof/Laws/Frames.lean ====
section
/-! SUPPORT. From the state an instruction answers to the shape a statement asks for: destination, PC and frame at once. -/

namespace Sys2Proof.Machine

/-- An instruction that only transfers control. -/
theorem movesPc_of_exec {i : Instr} {s : State} {w : Word} (h : exec i s = .next (s.setPc w)) : MovesPc i s w := by
  refine ⟨_, h, rfl, fun p hp => ?_⟩
  cases p <;> first | rfl | exact absurd rfl hp

/-- An instruction that writes one register and goes on. -/
theorem setsReg_of_exec {i : Instr} {s : State} {x : Reg} {b : Byte} (h : exec i s = .next (s.setReg x b).advance) :
    SetsReg i s x b := by
  refine ⟨_, h, ?_, rfl, fun p hp => ?_⟩
  · rw [State.reg_advance, State.reg_setReg, if_pos rfl]
  · cases p with
    | reg r =>
      show ((s.setReg x b).advance).reg r = s.reg r
      rw [State.reg_advance, State.reg_setReg, if_neg fun e => hp (.inl (congrArg _ e))]
    | _ => first | rfl | exact absurd (.inr rfl) hp

/-- An instruction that writes VF as a flag, then its result, and goes on. -/
theorem setsRegAndFlag_of_exec {i : Instr} {s : State} {x : Reg} {flag : Bool} {b : Byte} {n : Nat}
    (h : exec i s = .next (s.setFlagged x flag b).advance) (hn : b.toNat = n) : SetsRegAndFlag i s x n flag := by
  refine ⟨_, h, ?_, fun hx => ?_, rfl, fun p hp => ?_⟩
  · rw [State.reg_advance, State.reg_setFlagged, if_pos rfl, hn]
  · rw [State.reg_advance, State.reg_setFlagged, if_neg (Ne.symm hx), if_pos rfl]
    cases flag <;> rfl
  · cases p with
    | reg r =>
      show ((s.setFlagged x flag b).advance).reg r = s.reg r
      rw [State.reg_advance, State.reg_setFlagged, if_neg fun e => hp (.inl (congrArg _ e)),
        if_neg fun e => hp (.inr (.inl (congrArg _ e)))]
    | _ => first | rfl | exact absurd (.inr (.inr rfl)) hp

/-- An instruction that writes I and goes on. -/
theorem setsI_of_exec {i : Instr} {s : State} {w : Word} {n : Nat} (h : exec i s = .next (s.setI w).advance)
    (hn : w.toNat = n) : SetsI i s n := by
  refine ⟨_, h, hn, rfl, fun p hp => ?_⟩
  cases p <;> first | rfl | exact absurd (.inl rfl) hp | exact absurd (.inr rfl) hp

/-- An instruction that raises. -/
theorem raisesFatal_of_exec {i : Instr} {s : State} {kind : Fault} {info : Nat}
    (h : exec i s = .next (s.raise kind info)) : RaisesFatal i s kind info := by
  refine ⟨_, h, rfl, rfl, fun p hp => ?_⟩
  cases p <;> first | rfl | exact absurd (.inl rfl) hp | exact absurd (.inr rfl) hp

end Sys2Proof.Machine
end

