-- ==== Sys2Proof/Laws/PerInstr.lean ====
section
/-! SUPPORT. Per-instruction facts about the syntax: the word of an instruction selects its own row of the opcode table
(spec/30_encoding.md R95). -/

namespace Sys2Proof.Laws.EncodeRow

/-- The word of the instruction, masked by its row's mask, is its row's match. -/
def Statement (i : Instr) : Prop := selectsRow (encode i) i.row = true

/-- A nibble of ones masks nothing. -/
theorem and_ones4 (f : BitVec 4) : f &&& 15#4 = f := BitVec.and_allOnes

/-- A byte of ones masks nothing. -/
theorem and_ones8 (b : BitVec 8) : b &&& 255#8 = b := BitVec.and_allOnes

/-- Format NNN keeps its family under the mask 0xF000. -/
theorem packNnn_row (f : BitVec 4) (nnn : Word) : packNnn f nnn &&& 0xF000 = f ++ 0x000#12 := by
  unfold packNnn
  have h : (0xF000 : Word) = 0xF#4 ++ 0x000#12 := by decide
  rw [h, BitVec.and_append]
  simp [and_ones4]

/-- Format XKK keeps its family under the mask 0xF000. -/
theorem packXkk_row (f : BitVec 4) (x : Reg) (kk : Byte) : packXkk f x kk &&& 0xF000 = f ++ 0x0#4 ++ 0x00#8 := by
  unfold packXkk
  have h : (0xF000 : Word) = 0xF#4 ++ 0x0#4 ++ 0x00#8 := by decide
  rw [h, BitVec.and_append, BitVec.and_append]
  simp [and_ones4]

/-- Format XB keeps its family and low byte under the mask 0xF0FF. -/
theorem packXb_row (f : BitVec 4) (x : Reg) (kk : Byte) : packXkk f x kk &&& 0xF0FF = f ++ 0x0#4 ++ kk := by
  unfold packXkk
  have h : (0xF0FF : Word) = 0xF#4 ++ 0x0#4 ++ 0xFF#8 := by decide
  rw [h, BitVec.and_append, BitVec.and_append]
  simp [and_ones4, and_ones8]

/-- Format XY keeps its family and low nibble under the mask 0xF00F. -/
theorem packXyn_row (f : BitVec 4) (x y : Reg) (n : BitVec 4) :
    packXyn f x y n &&& 0xF00F = f ++ 0x0#4 ++ 0x0#4 ++ n := by
  unfold packXyn
  have h : (0xF00F : Word) = 0xF#4 ++ 0x0#4 ++ 0x0#4 ++ 0xF#4 := by decide
  rw [h, BitVec.and_append, BitVec.and_append, BitVec.and_append]
  simp [and_ones4]

/-- Format XYN keeps its family under the mask 0xF000. -/
theorem packXyn_family (f : BitVec 4) (x y : Reg) (n : BitVec 4) :
    packXyn f x y n &&& 0xF000 = f ++ 0x0#4 ++ 0x0#4 ++ 0x0#4 := by
  unfold packXyn
  have h : (0xF000 : Word) = 0xF#4 ++ 0x0#4 ++ 0x0#4 ++ 0x0#4 := by decide
  rw [h, BitVec.and_append, BitVec.and_append, BitVec.and_append]
  simp [and_ones4]

/-- A masked word that is the match selects the row. -/
theorem selects_of {op m k : Word} {r : Fin 34} (h : op &&& m = k) (hm : rowMask.get r = m) (hk : rowMatch.get r = k) :
    selectsRow op r = true := by
  unfold selectsRow
  rw [hm, hk, h]
  exact beq_self_eq_true k

theorem cls : Statement .cls := selects_of (by decide) rfl rfl
theorem ret : Statement .ret := selects_of (by decide) rfl rfl
theorem jp (nnn : Word) : Statement (.jp nnn) := selects_of (packNnn_row _ nnn) rfl rfl
theorem call (nnn : Word) : Statement (.call nnn) := selects_of (packNnn_row _ nnn) rfl rfl
theorem seImm (x : Reg) (kk : Byte) : Statement (.seImm x kk) := selects_of (packXkk_row _ x kk) rfl rfl
theorem sneImm (x : Reg) (kk : Byte) : Statement (.sneImm x kk) := selects_of (packXkk_row _ x kk) rfl rfl
theorem seReg (x : Reg) (y : Reg) : Statement (.seReg x y) := selects_of (packXyn_row _ x y _) rfl rfl
theorem ldImm (x : Reg) (kk : Byte) : Statement (.ldImm x kk) := selects_of (packXkk_row _ x kk) rfl rfl
theorem addImm (x : Reg) (kk : Byte) : Statement (.addImm x kk) := selects_of (packXkk_row _ x kk) rfl rfl
theorem ldReg (x : Reg) (y : Reg) : Statement (.ldReg x y) := selects_of (packXyn_row _ x y _) rfl rfl
theorem orReg (x : Reg) (y : Reg) : Statement (.orReg x y) := selects_of (packXyn_row _ x y _) rfl rfl
theorem andReg (x : Reg) (y : Reg) : Statement (.andReg x y) := selects_of (packXyn_row _ x y _) rfl rfl
theorem xorReg (x : Reg) (y : Reg) : Statement (.xorReg x y) := selects_of (packXyn_row _ x y _) rfl rfl
theorem addReg (x : Reg) (y : Reg) : Statement (.addReg x y) := selects_of (packXyn_row _ x y _) rfl rfl
theorem subReg (x : Reg) (y : Reg) : Statement (.subReg x y) := selects_of (packXyn_row _ x y _) rfl rfl
theorem shr (x : Reg) (y : Reg) : Statement (.shr x y) := selects_of (packXyn_row _ x y _) rfl rfl
theorem subn (x : Reg) (y : Reg) : Statement (.subn x y) := selects_of (packXyn_row _ x y _) rfl rfl
theorem shl (x : Reg) (y : Reg) : Statement (.shl x y) := selects_of (packXyn_row _ x y _) rfl rfl
theorem sneReg (x : Reg) (y : Reg) : Statement (.sneReg x y) := selects_of (packXyn_row _ x y _) rfl rfl
theorem ldI (nnn : Word) : Statement (.ldI nnn) := selects_of (packNnn_row _ nnn) rfl rfl
theorem jpV0 (nnn : Word) : Statement (.jpV0 nnn) := selects_of (packNnn_row _ nnn) rfl rfl
theorem rnd (x : Reg) (kk : Byte) : Statement (.rnd x kk) := selects_of (packXkk_row _ x kk) rfl rfl
theorem drw (x : Reg) (y : Reg) (n : Nibble) : Statement (.drw x y n) := selects_of (packXyn_family _ x y _) rfl rfl
theorem skp (x : Reg) : Statement (.skp x) := selects_of (packXb_row _ x _) rfl rfl
theorem sknp (x : Reg) : Statement (.sknp x) := selects_of (packXb_row _ x _) rfl rfl
theorem ldFromDt (x : Reg) : Statement (.ldFromDt x) := selects_of (packXb_row _ x _) rfl rfl
theorem ldKey (x : Reg) : Statement (.ldKey x) := selects_of (packXb_row _ x _) rfl rfl
theorem ldDt (x : Reg) : Statement (.ldDt x) := selects_of (packXb_row _ x _) rfl rfl
theorem ldSt (x : Reg) : Statement (.ldSt x) := selects_of (packXb_row _ x _) rfl rfl
theorem addI (x : Reg) : Statement (.addI x) := selects_of (packXb_row _ x _) rfl rfl
theorem ldFont (x : Reg) : Statement (.ldFont x) := selects_of (packXb_row _ x _) rfl rfl
theorem ldBcd (x : Reg) : Statement (.ldBcd x) := selects_of (packXb_row _ x _) rfl rfl
theorem storeRegs (x : Reg) : Statement (.storeRegs x) := selects_of (packXb_row _ x _) rfl rfl
theorem loadRegs (x : Reg) : Statement (.loadRegs x) := selects_of (packXb_row _ x _) rfl rfl

end Sys2Proof.Laws.EncodeRow
end

