-- ==== Sys2Proof/Tests/Slice0.lean ====
section
/-! SUPPORT. Tests of single steps, and a witness for the hypotheses of every statement. Expected results come from the spec:
the encodings of 30_encoding.md R95 and the vectors of 95_test_vectors.md, named beside each test. -/

namespace Sys2Proof.Tests

open Sys2Proof Sys2Proof.Machine

/-! ### Helpers -/

/-- `s` with the opcode `op` at PC, high byte first. -/
def at_ (s : State) (op : Nat) : State := s.withFetchWord 16 op

/-- The state after one step (the step always answers one). -/
def after (s : State) : State :=
  match Sys2Proof.Machine.step s with
  | .next t => t
  | _ => s

/-- The state after one step of `s` on the opcode `op`. -/
def stepOn (s : State) (op : Nat) : State := after (at_ s op)

/-- The state after reset with one register set. -/
def withV (x : Reg) (b : Byte) : State := State.reset.setReg x b

/-- The state after reset with two registers set. -/
def withVV (x : Reg) (a : Byte) (y : Reg) (b : Byte) : State := (State.reset.setReg x a).setReg y b

/-- One byte of memory set. -/
def poke (s : State) (a : Nat) (b : Byte) : State := s.setMem (s.mem.write a b)

/-- One cell of the frame buffer flipped. -/
def dot (s : State) (row col : Nat) : State := s.setFb (s.fb.flip row col)

/-- One key held down. -/
def press (s : State) (k : Fin 16) : State := updateKeys (s.keys.set k.val true k.isLt) s

/-- The stack pointer and one slot set. -/
def nested (sp : BitVec 4) (w : Word) : State :=
  { State.reset with sp := sp, stack := State.reset.stack.set sp.toNat w sp.isLt }

/-! ### Well-formedness: an address that no encoding holds is refused -/

theorem test_wf_jp : (Instr.jp 0x1000).wellFormed = false ∧ (Instr.jp 0x0FFF).wellFormed = true := by decide

theorem test_wf_call : (Instr.call 0x1000).wellFormed = false ∧ (Instr.call 0x0FFF).wellFormed = true := by decide

theorem test_wf_ldI : (Instr.ldI 0xF000).wellFormed = false ∧ (Instr.ldI 0x0FFF).wellFormed = true := by decide

theorem test_wf_jpV0 : (Instr.jpV0 0x1000).wellFormed = false ∧ (Instr.jpV0 0x0FFF).wellFormed = true := by decide

/-! ### Decoding: a word of every row, written out from its pattern (30_encoding.md R95, R92) -/

/-- 00E0. -/
theorem test_decode_cls : decodeTableWord 16 0b0000000011100000 = some (.cls) := by decide

/-- 00EE. -/
theorem test_decode_ret : decodeTableWord 16 0b0000000011101110 = some (.ret) := by decide

/-- 1nnn. -/
theorem test_decode_jp : decodeTableWord 16 0b0001001000000100 = some (.jp 0x204) := by decide

/-- 2nnn. -/
theorem test_decode_call : decodeTableWord 16 0b0010001000001010 = some (.call 0x20A) := by decide

/-- 3xkk. -/
theorem test_decode_seImm : decodeTableWord 16 0b0011101001000010 = some (.seImm 10 0x42) := by decide

/-- 4xkk. -/
theorem test_decode_sneImm : decodeTableWord 16 0b0100101001000010 = some (.sneImm 10 0x42) := by decide

/-- 5xy0. -/
theorem test_decode_seReg : decodeTableWord 16 0b0101000100100000 = some (.seReg 1 2) := by decide

/-- 6xkk. -/
theorem test_decode_ldImm : decodeTableWord 16 0b0110000011101010 = some (.ldImm 0 0xEA) := by decide

/-- 7xkk. -/
theorem test_decode_addImm : decodeTableWord 16 0b0111000111111111 = some (.addImm 1 0xFF) := by decide

/-- 8xy0. -/
theorem test_decode_ldReg : decodeTableWord 16 0b1000000100100000 = some (.ldReg 1 2) := by decide

/-- 8xy1. -/
theorem test_decode_orReg : decodeTableWord 16 0b1000111110100001 = some (.orReg 15 10) := by decide

/-- 8xy2. -/
theorem test_decode_andReg : decodeTableWord 16 0b1000000000010010 = some (.andReg 0 1) := by decide

/-- 8xy3. -/
theorem test_decode_xorReg : decodeTableWord 16 0b1000010001000011 = some (.xorReg 4 4) := by decide

/-- 8xy4. -/
theorem test_decode_addReg : decodeTableWord 16 0b1000000000010100 = some (.addReg 0 1) := by decide

/-- 8xy5. -/
theorem test_decode_subReg : decodeTableWord 16 0b1000000000010101 = some (.subReg 0 1) := by decide

/-- 8xy6. -/
theorem test_decode_shr : decodeTableWord 16 0b1000001100010110 = some (.shr 3 1) := by decide

/-- 8xy7. -/
theorem test_decode_subn : decodeTableWord 16 0b1000111100010111 = some (.subn 15 1) := by decide

/-- 8xyE. -/
theorem test_decode_shl : decodeTableWord 16 0b1000001100001110 = some (.shl 3 0) := by decide

/-- 9xy0. -/
theorem test_decode_sneReg : decodeTableWord 16 0b1001000100100000 = some (.sneReg 1 2) := by decide

/-- Annn. -/
theorem test_decode_ldI : decodeTableWord 16 0b1010001100000000 = some (.ldI 0x300) := by decide

/-- Bnnn. -/
theorem test_decode_jpV0 : decodeTableWord 16 0b1011111111111111 = some (.jpV0 0xFFF) := by decide

/-- Cxkk. -/
theorem test_decode_rnd : decodeTableWord 16 0b1100000100001111 = some (.rnd 1 0x0F) := by decide

/-- Dxyn. -/
theorem test_decode_drw : decodeTableWord 16 0b1101000000010010 = some (.drw 0 1 2) := by decide

/-- Ex9E. -/
theorem test_decode_skp : decodeTableWord 16 0b1110010110011110 = some (.skp 5) := by decide

/-- ExA1. -/
theorem test_decode_sknp : decodeTableWord 16 0b1110010110100001 = some (.sknp 5) := by decide

/-- Fx07. -/
theorem test_decode_ldFromDt : decodeTableWord 16 0b1111001000000111 = some (.ldFromDt 2) := by decide

/-- Fx0A. -/
theorem test_decode_ldKey : decodeTableWord 16 0b1111010100001010 = some (.ldKey 5) := by decide

/-- Fx15. -/
theorem test_decode_ldDt : decodeTableWord 16 0b1111000000010101 = some (.ldDt 0) := by decide

/-- Fx18. -/
theorem test_decode_ldSt : decodeTableWord 16 0b1111000000011000 = some (.ldSt 0) := by decide

/-- Fx1E. -/
theorem test_decode_addI : decodeTableWord 16 0b1111001000011110 = some (.addI 2) := by decide

/-- Fx29. -/
theorem test_decode_ldFont : decodeTableWord 16 0b1111101000101001 = some (.ldFont 10) := by decide

/-- Fx33. -/
theorem test_decode_ldBcd : decodeTableWord 16 0b1111000000110011 = some (.ldBcd 0) := by decide

/-- Fx55. -/
theorem test_decode_storeRegs : decodeTableWord 16 0b1111001101010101 = some (.storeRegs 3) := by decide

/-- Fx65. -/
theorem test_decode_loadRegs : decodeTableWord 16 0b1111001001100101 = some (.loadRegs 2) := by decide

/-- The unknown opcodes listed under B1. -/
theorem test_decode_unknown :
    [0x0000, 0x0123, 0x00E1, 0x00EF, 0x0FFF, 0x5121, 0x9121].all (decodeTableWord 16 · == none) = true ∧
    [0x8128, 0x812F, 0xE000, 0xE19F, 0xF000, 0xF0FF, 0xF156].all (decodeTableWord 16 · == none) = true := by decide

/-- Fewer than two bytes are no instruction. -/
theorem test_decode_short : decode [0x12] = .error .tooFewBytes := by rfl

/-! ### The step frame (B1, A11, P6) -/

/-- B1.1: a fetch at 0xFFF. -/
theorem test_fetch_past_end :
    (after { State.reset with pc := 0xFFF, dt := 4 }).fault = some .addressOutOfRange ∧
    (after { State.reset with pc := 0xFFF, dt := 4 }).dt = 4 := by decide

/-- B1.2: the last address that can be fetched. -/
theorem test_fetch_last :
    (stepOn (State.reset.setPc 0xFFE) 0x6012).reg 0 = 0x12 ∧ (stepOn (State.reset.setPc 0xFFE) 0x6012).pc = 0x1000 := by decide

/-- B1.3: an unknown opcode: PC held, timers and tone run. -/
theorem test_unknown_opcode :
    let t := after { State.reset with dt := 2, st := 2 }
    t.pc = 0x200 ∧ t.dt = 1 ∧ t.st = 1 ∧ t.tone = true ∧ t.fault = none ∧ t.result = .unknownOpcode 0 0x200 := by decide

/-- B1.5: a set latch keeps even REDRAW. -/
theorem test_latched :
    let t := after { State.reset with fault := some .stackOverflow, redraw := true }
    t.redraw = true ∧ t.result = .fatal .stackOverflow none ∧ t.pc = 0x200 := by decide

/-- B1.6: the flags of the step before are cleared. -/
theorem test_flags_cleared :
    let t := stepOn { State.reset with redraw := true, tone := true } 0x6000
    t.redraw = false ∧ t.tone = false ∧ t.pc = 0x202 := by decide

/-- P6, step 4: the byte stored by the step before is fetched. -/
theorem test_self_modifying :
    let s := poke (poke ((withV 0 0x12).setI 0x206) 0x206 0x00) 0x207 0x06
    (after (stepOn { s with pc := 0x204 } 0xF055)).pc = 0x206 ∧ (after (stepOn { s with pc := 0x204 } 0xF055)).result = .ok := by
  decide

/-! ### Control transfer (B2) -/

/-- B2.2. -/
theorem test_jp_odd :
    (stepOn State.reset 0x1201).pc = 0x201 ∧ (stepOn State.reset 0x1201).result = .ok := by decide

/-- B2.3: legal, and the next step is fatal. -/
theorem test_jp_end :
    (stepOn State.reset 0x1FFF).fault = none ∧ (after (stepOn State.reset 0x1FFF)).fault = some .addressOutOfRange := by decide

/-- B2.6. -/
theorem test_call :
    let t := stepOn { nested 14 0 with pc := 0xABC } 0x2300
    t.sp = 15 ∧ t.slot 15 = 0x0ABC ∧ t.pc = 0x300 := by decide

/-- B2.7. -/
theorem test_call_overflow :
    let t := stepOn { nested 15 0 with st := 2 } 0x2300
    t.fault = some .stackOverflow ∧ t.sp = 15 ∧ t.st = 2 ∧ t.pc = 0x200 ∧ t.result = .fatal .stackOverflow (some 0x200) := by decide

/-- B2.8. -/
theorem test_ret :
    let t := stepOn { nested 1 0x204 with pc := 0x20C } 0x00EE
    t.pc = 0x206 ∧ t.sp = 0 ∧ t.slot 1 = 0x204 := by decide

/-- B2.10. -/
theorem test_ret_underflow :
    let t := stepOn { State.reset with dt := 3 } 0x00EE
    t.fault = some .stackUnderflow ∧ t.dt = 3 ∧ t.pc = 0x200 := by decide

/-- B2.12: no mask. -/
theorem test_jpV0 :
    (stepOn (withV 0 0xFF) 0xBFFF).pc = 0x10FE ∧ (after (stepOn (withV 0 0xFF) 0xBFFF)).fault = some .addressOutOfRange := by decide

/-- B2.13: the register is V0. -/
theorem test_jpV0_register :
    (stepOn (withV 3 0x55) 0xB300).pc = 0x300 := by decide

/-! ### Skips (B3) -/

/-- B3.1, B3.2. -/
theorem test_seImm :
    (stepOn (withV 10 0x42) 0x3A42).pc = 0x204 ∧ (stepOn (withV 10 0x43) 0x3A42).pc = 0x202 := by decide

/-- B3.11. -/
theorem test_seImm_end :
    (stepOn (State.reset.setPc 0xFFC) 0x3000).pc = 0x1000 := by decide

/-- B3.3, B3.4. -/
theorem test_sneImm :
    (stepOn (withV 10 0x42) 0x4A42).pc = 0x202 ∧ (stepOn (withV 10 0x43) 0x4A42).pc = 0x204 := by decide

/-- B3.5, B3.6. -/
theorem test_seReg :
    (stepOn (withVV 1 9 2 9) 0x5120).pc = 0x204 ∧ (stepOn (withVV 1 9 2 8) 0x5120).pc = 0x202 := by decide

/-- B3.8, B3.9. -/
theorem test_sneReg :
    (stepOn (withVV 1 9 2 9) 0x9120).pc = 0x202 ∧ (stepOn (withVV 1 9 2 8) 0x9120).pc = 0x204 := by decide

/-! ### ALU (B4) -/

/-- B4.2. -/
theorem test_ldImm :
    let t := stepOn (State.reset) 0x6F07
    t.reg 15 = 0x07 ∧ t.pc = 0x202 := by decide

/-- B4.4: no carry flag. -/
theorem test_addImm :
    let t := stepOn (withV 1 0xFF) 0x7102
    t.reg 1 = 0x01 ∧ t.reg 15 = 0 ∧ t.pc = 0x202 := by decide

/-- B4.6. -/
theorem test_ldReg :
    let t := stepOn (withV 2 0x5A) 0x8120
    t.reg 1 = 0x5A ∧ t.pc = 0x202 := by decide

/-- B4.8. -/
theorem test_orReg :
    let t := stepOn (withVV 15 0x01 10 0x80) 0x8FA1
    t.reg 15 = 0x81 ∧ t.pc = 0x202 := by decide

/-- B4.9. -/
theorem test_andReg :
    let t := stepOn (withVV 0 0xF0 1 0x3C) 0x8012
    t.reg 0 = 0x30 ∧ t.pc = 0x202 := by decide

/-- B4.10. -/
theorem test_xorReg :
    let t := stepOn (withVV 0 0xF0 1 0x3C) 0x8013
    t.reg 0 = 0xCC ∧ t.reg 15 = 0 ∧ t.pc = 0x202 := by decide

/-- A4, B4.13. -/
theorem test_addReg :
    let t := stepOn (withVV 0 0xFF 1 0x01) 0x8014
    t.reg 0 = 0 ∧ t.reg 1 = 1 ∧ t.reg 15 = 1 ∧ t.pc = 0x202 := by decide

/-- B4.15: the result wins. -/
theorem test_addReg_vf :
    let t := stepOn (withVV 15 0xFF 1 0x03) 0x8F14
    t.reg 15 = 2 ∧ t.reg 1 = 3 ∧ t.pc = 0x202 := by decide

/-- A5. -/
theorem test_subReg :
    let t := stepOn (withVV 0 0x01 1 0x02) 0x8015
    t.reg 0 = 0xFF ∧ t.reg 15 = 0 ∧ t.pc = 0x202 := by decide

/-- B4.18: strict. -/
theorem test_subReg_equal :
    let t := stepOn (withVV 0 0x07 1 0x07) 0x8015
    t.reg 0 = 0 ∧ t.reg 15 = 0 ∧ t.pc = 0x202 := by decide

/-- B4.23: Vy ignored. -/
theorem test_shr :
    let t := stepOn (withVV 3 0x04 1 0xFF) 0x8316
    t.reg 3 = 2 ∧ t.reg 15 = 0 ∧ t.reg 1 = 0xFF ∧ t.pc = 0x202 := by decide

/-- B4.24. -/
theorem test_shr_vf :
    let t := stepOn (withV 15 0x06) 0x8F06
    t.reg 15 = 3 ∧ t.pc = 0x202 := by decide

/-- B4.26. -/
theorem test_subn :
    let t := stepOn (withVV 0 0x05 1 0x03) 0x8017
    t.reg 0 = 0xFE ∧ t.reg 15 = 0 ∧ t.pc = 0x202 := by decide

/-- B4.28. -/
theorem test_subn_vf :
    let t := stepOn (withVV 15 0x02 1 0x0A) 0x8F17
    t.reg 15 = 8 ∧ t.pc = 0x202 := by decide

/-- B4.29. -/
theorem test_shl :
    let t := stepOn (withV 3 0x81) 0x830E
    t.reg 3 = 2 ∧ t.reg 15 = 1 ∧ t.pc = 0x202 := by decide

/-- B4.32. -/
theorem test_shl_vf :
    let t := stepOn (withV 15 0x81) 0x8F0E
    t.reg 15 = 2 ∧ t.pc = 0x202 := by decide

/-- B4.33 for any byte: the draw is masked, and the next draw is another. -/
theorem test_rnd :
    (stepOn State.reset 0xC10F).reg 1 = Config.rndByte 0 &&& 0x0F ∧ (stepOn State.reset 0xC10F).rndDraws = 1 := ⟨rfl, rfl⟩

/-! ### Index and memory (B5) -/

/-- B5.1. -/
theorem test_ldI :
    (stepOn (State.reset.setI 0xFFFF) 0xA300).i = 0x0300 := by decide

/-- B5.3, B5.4: no mask at 12 bits, a wrap at 16. -/
theorem test_addI :
    (stepOn ((withV 2 0x01).setI 0x0FFF) 0xF21E).i = 0x1000 ∧ (stepOn ((withV 2 0x02).setI 0xFFFF) 0xF21E).i = 0x0001 := by decide

/-- A7, B5.6. -/
theorem test_ldFont :
    (stepOn (withV 0 0x0A) 0xF029).i = 0x0032 ∧ (stepOn (withV 0 0xFF) 0xF029).i = 0x04FB := by decide

/-- A6. -/
theorem test_ldBcd :
    let t := stepOn ((withV 0 0xEA).setI 0x300) 0xF033
    t.byteAt 0x300 = 2 ∧ t.byteAt 0x301 = 3 ∧ t.byteAt 0x302 = 4 ∧ t.i = 0x300 ∧ t.pc = 0x202 := by decide

/-- B5.9. -/
theorem test_ldBcd_fault :
    let t := stepOn ((withV 0 0xFF).setI 0xFFE) 0xF033
    t.fault = some .addressOutOfRange ∧ t.byteAt 0xFFE = 0 ∧ t.result = .fatal .addressOutOfRange (some 0x1000) := by decide

/-- B5.11. -/
theorem test_storeRegs :
    let t := stepOn (((withVV 0 1 1 2).setReg 3 4).setI 0xFFC) 0xF355
    t.byteAt 0xFFC = 1 ∧ t.byteAt 0xFFD = 2 ∧ t.byteAt 0xFFE = 0 ∧ t.byteAt 0xFFF = 4 ∧ t.i = 0xFFC := by decide

/-- B5.12. -/
theorem test_storeRegs_fault :
    let t := stepOn ((withV 0 1).setI 0xFFD) 0xF355
    t.fault = some .addressOutOfRange ∧ t.byteAt 0xFFD = 0 ∧ t.pc = 0x200 := by decide

/-- B5.13: the font. -/
theorem test_loadRegs :
    let t := stepOn State.reset 0xFF65
    t.reg 0 = 0xF0 ∧ t.reg 5 = 0x20 ∧ t.reg 15 = 0xF0 ∧ t.i = 0 := by decide

/-- B5.14. -/
theorem test_loadRegs_fault :
    let t := stepOn ((withV 0 7).setI 0xFF1) 0xFF65
    t.fault = some .addressOutOfRange ∧ t.reg 0 = 7 := by decide

/-! ### Display (B6) -/

/-- B6.1. -/
theorem test_cls :
    let t := stepOn (dot (dot (withV 15 9) 5 5) 31 63) 0x00E0
    t.fb.pixel 5 5 = false ∧ t.fb.pixel 31 63 = false ∧ t.redraw = true ∧ t.reg 15 = 9 := by decide

/-- B6.5: clipped at both edges. -/
theorem test_drw_clip :
    let t := stepOn (poke (poke ((withVV 0 0x7E 1 0x3F).setI 0x20C) 0x20C 0xC0) 0x20D 0xFF) 0xD012
    t.fb.pixel 31 62 = true ∧ t.fb.pixel 31 63 = true ∧ t.fb.pixel 0 62 = false ∧ t.fb.pixel 31 0 = false ∧ t.reg 15 = 0 := by decide

/-- B6.6, and B6.7: VF read before it is written, VF set on a collision. -/
theorem test_drw_vf :
    let t := stepOn (poke ((withVV 15 70 1 33).setI 0x300) 0x300 0x80) 0xDF11
    let u := stepOn (dot (poke (State.reset.setI 0x300) 0x300 0xC0) 0 1) 0xD011
    t.fb.pixel 1 6 = true ∧ t.reg 15 = 0 ∧ u.fb.pixel 0 0 = true ∧ u.fb.pixel 0 1 = false ∧ u.reg 15 = 1 := by decide

/-! ### Keypad and timers (B7) -/

/-- B7.1, B7.2. -/
theorem test_skp :
    (stepOn (press (withV 5 7) 7) 0xE59E).pc = 0x204 ∧ (stepOn (withV 5 7) 0xE59E).pc = 0x202 := by decide

/-- B7.5: no masking to key 0. -/
theorem test_skp_fault :
    (stepOn (press (withV 5 0x10) 0) 0xE59E).fault = some .keyOutOfRange ∧ (stepOn (press (withV 5 0x10) 0) 0xE59E).pc = 0x200 := by decide

/-- B7.3, B7.4. -/
theorem test_sknp :
    (stepOn (withV 5 7) 0xE5A1).pc = 0x204 ∧ (stepOn (press (withV 5 7) 7) 0xE5A1).pc = 0x202 := by decide

/-- B7.6. -/
theorem test_sknp_fault :
    (stepOn (withV 5 0xFF) 0xE5A1).result = .fatal .keyOutOfRange (some 0xFF) := by decide

/-- B7.7. -/
theorem test_ldFromDt :
    let t := stepOn { State.reset with dt := 5 } 0xF207
    t.reg 2 = 5 ∧ t.dt = 4 := by decide

/-- B7.9: the lowest wins. -/
theorem test_ldKey :
    let t := stepOn (press (press (withV 3 0x99) 4) 15) 0xF30A
    t.reg 3 = 4 ∧ t.pc = 0x202 := by decide

/-- B7.10. -/
theorem test_ldKey_wait :
    let t := stepOn { withV 3 0x99 with dt := 1, st := 1 } 0xF30A
    t.reg 3 = 0x99 ∧ t.pc = 0x200 ∧ t.dt = 0 ∧ t.st = 0 ∧ t.tone = true ∧ t.result = .ok := by decide

/-- B7.12, B7.14. -/
theorem test_ldDt :
    (stepOn (withV 0 3) 0xF015).dt = 2 ∧ (stepOn { State.reset with dt := 9 } 0xF015).dt = 0 := by decide

/-- B7.17, B7.18. -/
theorem test_ldSt :
    let t := stepOn (withV 0 1) 0xF018
    let u := stepOn { State.reset with st := 9 } 0xF018
    t.st = 0 ∧ t.tone = true ∧ u.st = 0 ∧ u.tone = false := by decide

/-! ### Reset, load and key update (B8, 10_state.md R36) -/

/-- R36: the host's vector overwrites KEYS. -/
theorem test_key_update :
    (updateKeys (Vector.replicate 16 true) (press State.reset 7)).keys = Vector.replicate 16 true ∧
    (updateKeys (Vector.replicate 16 false) (press State.reset 7)).keys.get 7 = false := by decide

/-- B8.2: a load leaves the latch; a reset clears it. -/
theorem test_load_latched :
    let s : State := { State.reset with fault := some .stackOverflow }
    let u := (loadProgram [0x12, 0x00] s).2
    (loadProgram [0x12, 0x00] s).1 = .ok ∧ u.byteAt 0x200 = 0x12 ∧ (after u).result = .fatal .stackOverflow none ∧
    (after (loadProgram [0x12, 0x00] (hostReset s)).2).result = .ok := by decide

/-- B8.4. -/
theorem test_load_keeps_rest :
    let s := poke (poke State.reset 0x201 0x22) 0x202 0x33
    let u := (loadProgram [0xAA, 0xBB] s).2
    u.byteAt 0x200 = 0xAA ∧ u.byteAt 0x201 = 0xBB ∧ u.byteAt 0x202 = 0x33 := by decide

/-- The codes of 60_exceptions.md R301. -/
theorem test_codes :
    StepResult.ok.code = 0 ∧ (StepResult.unknownOpcode 0 0).code = 1 ∧ (StepResult.fatal .addressOutOfRange none).code = 2 ∧
    Fault.stackOverflow.code = 3 ∧ Fault.stackUnderflow.code = 4 ∧ Fault.keyOutOfRange.code = 5 ∧ (LoadResult.romTooLarge 3585).code = 6 := by decide

/-! ### Witnesses: concrete states and operands that meet the hypotheses of the statements

Each is named after the statement it serves. -/

theorem test_witness_EncodeThenDecode :
    (Instr.jp 0xFFF).wellFormed = true ∧ (Instr.drw 15 15 15).wellFormed = true := by decide

theorem test_witness_DecodeThenEncode :
    decodeOp 0xFF65 = .ok (.loadRegs 15) := rfl

theorem test_witness_DecodesTo :
    (0x1FFF : Word) &&& 0xF000 = 0x1000 ∧ (0x3A42 : Word) &&& 0xF000 = 0x3000 ∧ (0x4A42 : Word) &&& 0xF000 = 0x4000 ∧
    (0x6F07 : Word) &&& 0xF000 = 0x6000 ∧ (0xAFFF : Word) &&& 0xF000 = 0xA000 ∧ (0x5FF0 : Word) &&& 0xF00F = 0x5000 ∧
    (0x9FF0 : Word) &&& 0xF00F = 0x9000 ∧ (0xFF07 : Word) &&& 0xF0FF = 0xF007 ∧ (0xFF0A : Word) &&& 0xF0FF = 0xF00A ∧
    (0xFF15 : Word) &&& 0xF0FF = 0xF015 ∧ (0xFF18 : Word) &&& 0xF0FF = 0xF018 := by decide

theorem test_witness_strict_skips :
    ((0x5121 : Word) &&& 0xF000 = 0x5000 ∧ (0x5121 : Word) &&& 0x000F ≠ 0) ∧
    ((0x912F : Word) &&& 0xF000 = 0x9000 ∧ (0x912F : Word) &&& 0x000F ≠ 0) := by decide

/-- The last address a fetch can start at, an instruction that completes. -/
theorem test_witness_StepRunsDecodedInstruction_ok :
    let s := at_ (State.reset.setPc 0xFFE) 0x6012
    s.fault = none ∧ s.pc.toNat ≤ 4094 ∧ (Instr.ldImm 0 0x12).wellFormed = true ∧
      decode [s.byteAt s.pc.toNat, s.byteAt (s.pc.toNat + 1)] = .ok (.ldImm 0 0x12, []) ∧
      ∃ u, exec (.ldImm 0 0x12) s.clearFlags = .next u ∧ u.fault = none :=
  ⟨by decide, by decide, by decide, by decide, _, rfl, rfl⟩

/-- An instruction that raises. -/
theorem test_witness_StepRunsDecodedInstruction_raise :
    let s := at_ State.reset 0x00EE
    s.fault = none ∧ s.pc.toNat ≤ 4094 ∧ Instr.ret.wellFormed = true ∧
      decode [s.byteAt s.pc.toNat, s.byteAt (s.pc.toNat + 1)] = .ok (.ret, []) ∧
      ∃ u, exec .ret s.clearFlags = .next u ∧ u.fault ≠ none :=
  ⟨by decide, by decide, by decide, by decide, _, rfl, by decide⟩

theorem test_witness_FetchIsBigEndian :
    (State.reset.setPc 0xFFE).pc.toNat + 1 < 4096 ∧ 4096 ≤ (State.reset.setPc 0xFFF).pc.toNat + 1 ∧
    (State.reset.setPc 0xFFF).fault = none := by decide

theorem test_witness_FetchPastEndIsFatal :
    (State.reset.setPc 0xFFF).fault = none ∧ 4095 ≤ (State.reset.setPc 0xFFF).pc.toNat := by decide

theorem test_witness_LatchedMachineDoesNothing :
    ({ State.reset with fault := some .keyOutOfRange } : State).fault = some .keyOutOfRange := by decide

theorem test_witness_UnknownOpcodeStep :
    State.reset.fault = none ∧ State.reset.fetch = some 0 ∧ decodeOp 0 = .error (.unknownOpcode 0) := by decide

theorem test_witness_UnknownOpcodeRepeatsForever :
    (State.reset.setSt 1).fault = none ∧ (State.reset.setSt 1).fetch = some 0 ∧ decodeOp 0 = .error (.unknownOpcode 0) := by decide

theorem test_witness_FatalStepIsPrecise :
    (at_ State.reset 0x00EE).fault = none ∧
    ∃ t, Sys2Proof.Machine.step (at_ State.reset 0x00EE) = .next t ∧ t.fault = some .stackUnderflow := ⟨by decide, _, rfl, by decide⟩

theorem test_witness_StepResultFollowsTable :
    (at_ State.reset 0xF033).fault = none ∧
    ∃ t, Sys2Proof.Machine.step (at_ State.reset 0xF033) = .next t ∧ t.fault = none := ⟨by decide, _, rfl, by decide⟩

theorem test_witness_PcFollowsClassTable :
    (at_ State.reset 0x3000).fault = none ∧
    ∃ t, Sys2Proof.Machine.step (at_ State.reset 0x3000) = .next t ∧ t.fault = none := ⟨by decide, _, rfl, by decide⟩

theorem test_witness_RedrawExactlyAfterClsAndDrw :
    (at_ State.reset 0x00E0).fault = none ∧
    ∃ t, Sys2Proof.Machine.step (at_ State.reset 0x00E0) = .next t ∧ t.fault = none := ⟨by decide, _, rfl, by decide⟩

theorem test_witness_RedrawExactlyAfterClsAndDrw_clauses :
    (at_ State.reset 0x00E0).nextInstr = some .cls ∧ (at_ State.reset 0xD010).nextInstr = some (.drw 0 1 0) ∧
    (stepOn State.reset 0x00E0).fault = none ∧ (stepOn (State.reset.setI 0xFFF) 0xD012).fault = some .addressOutOfRange := by decide

theorem test_witness_StepResultFollowsTable_clauses :
    (at_ ((withV 0 1).setI 0xFFD) 0xF355).expectedResult = .fatal .addressOutOfRange (some 0x1000) ∧
    (at_ ((withV 0 1).setI 0xFFC) 0xF355).expectedResult = .ok ∧ State.reset.expectedResult = .unknownOpcode 0 0x200 ∧
    (State.reset.setPc 0xFFF).expectedResult = .fatal .addressOutOfRange (some 0xFFF) := by decide

theorem test_witness_PcFollowsClassTable_unknown :
    State.reset.nextInstr = none ∧ (after State.reset).fault = none := by decide

/-- An Fx07 with both timers at their last count, and an Fx18 of this very step. -/
theorem test_witness_TimersDecayAfterExecute :
    let s := at_ { State.reset with dt := 1, st := 1 } 0xF207
    s.fault = none ∧ (∃ t, Sys2Proof.Machine.step s = .next t ∧ t.fault = none) ∧ s.nextInstr = some (.ldFromDt 2) ∧
      (at_ (withV 0 1) 0xF018).nextInstr = some (.ldSt 0) ∧ (at_ (withV 0 1) 0xF018).stAtDecay = 1 :=
  ⟨by decide, ⟨_, rfl, by decide⟩, by decide, by decide, by decide⟩

theorem test_witness_KeysAndLatchAcrossRequests :
    (∃ t, perform .step { State.reset with fault := some .stackOverflow } = .next t) ∧ HostAction.step ≠ .reset ∧
      (∀ k, HostAction.step ≠ .keys k) ∧ ∃ t, perform (.keys State.reset.keys) State.reset = .next t :=
  ⟨⟨_, rfl⟩, by decide, fun _ => (by simp), _, rfl⟩

/-- One instruction meets the premises of every clause of the table of writers. -/
theorem test_witness_StateWrittenOnlyByItsWriters :
    (∃ t, exec (.ldImm 1 5) State.reset = .next t) ∧ (∀ x, Instr.ldImm 1 5 ≠ .ldBcd x) ∧ (∀ x, Instr.ldImm 1 5 ≠ .storeRegs x) ∧
      (∀ n, Instr.ldImm 1 5 ≠ .ldI n) ∧ (∀ x, Instr.ldImm 1 5 ≠ .addI x) ∧ (∀ x, Instr.ldImm 1 5 ≠ .ldFont x) ∧
      (∀ n, Instr.ldImm 1 5 ≠ .call n) ∧ Instr.ldImm 1 5 ≠ .ret ∧ (∀ x, Instr.ldImm 1 5 ≠ .ldDt x) ∧
      (∀ x, Instr.ldImm 1 5 ≠ .ldSt x) ∧ Instr.ldImm 1 5 ≠ .cls ∧ (∀ x y n, Instr.ldImm 1 5 ≠ .drw x y n) ∧
      mayWriteReg (.ldImm 1 5) 15 = false ∧ raises State.reset (.ldImm 1 5) = none := by
  refine ⟨⟨_, rfl⟩, ?_, ?_, ?_, ?_, ?_, ?_, ?_, ?_, ?_, ?_, ?_, rfl, rfl⟩ <;> simp

/-- An instruction that raises. -/
theorem test_witness_StateWrittenOnlyByItsWriters_raise :
    (∃ t, exec .ret State.reset = .next t) ∧ raises State.reset .ret ≠ none := ⟨⟨_, rfl⟩, by decide⟩

theorem test_witness_RegistersWrittenOnlyPerTable :
    (∃ t, exec (.loadRegs 14) State.reset = .next t) ∧ mayWriteReg (.loadRegs 14) 15 = false := ⟨⟨_, rfl⟩, by decide⟩

theorem test_witness_JumpV0AddsUnmasked :
    (0x0FFF : Word).toNat < 4096 := by decide

theorem test_witness_CallSavesItsOwnAddress :
    (nested 14 0).sp.toNat < 15 ∧ (nested 15 0).sp.toNat = 15 := by decide

theorem test_witness_ReturnGoesPastTheCall :
    0 < (nested 1 0x204).sp.toNat ∧ State.reset.sp.toNat = 0 := by decide

theorem test_witness_CallThenReturnResumes :
    (nested 14 0).sp.toNat < 15 ∧ ∃ u, exec (.call 0x300) (nested 14 0) = .next u ∧ (u.setPc 0xFFE).sp = u.sp ∧
      (u.setPc 0xFFE).stack = u.stack := ⟨by decide, _, rfl, rfl, rfl⟩

theorem test_witness_StoreDecimalDigits :
    (State.reset.setI 0xFFD).mem.wf = true ∧ (State.reset.setI 0xFFD).i.toNat + 2 ≤ 4095 ∧
    4095 < (State.reset.setI 0xFFE).i.toNat + 2 := by decide

theorem test_witness_StoreRegisters :
    (State.reset.setI 0xFF0).mem.wf = true ∧ (State.reset.setI 0xFF0).i.toNat + (15 : Reg).val ≤ 4095 ∧
    4095 < (State.reset.setI 0xFF1).i.toNat + (15 : Reg).val := by decide

theorem test_witness_LoadRegisters :
    (State.reset.setI 0xFFF).i.toNat + (0 : Reg).val ≤ 4095 ∧ 4095 < (State.reset.setI 0x1000).i.toNat + (0 : Reg).val := by decide

theorem test_witness_StoreThenLoadRestores :
    (State.reset.setI 0xFF0).mem.wf = true ∧ (State.reset.setI 0xFF0).i.toNat + (15 : Reg).val ≤ 4095 ∧
    ∃ u, exec (.storeRegs 15) (State.reset.setI 0xFF0) = .next u ∧ (u.setReg 0 0xFF).mem = u.mem ∧ (u.setReg 0 0xFF).i = u.i := ⟨by decide, by decide, _, rfl, rfl, rfl⟩

theorem test_witness_DrawFlipsExactlyTheSprite :
    ((0 : Nibble).val = 0 ∧ 4095 < (State.reset.setI 0x1000).i.toNat) ∧ (State.reset.setI 0xFFE).i.toNat + (2 : Nibble).val - 1 ≤ 4095 ∧
    0 < (2 : Nibble).val ∧ 4095 < (State.reset.setI 0xFFF).i.toNat + (2 : Nibble).val - 1 := by decide

/-- A cell that was set under a sprite's 1 bit; and a clear grid, where there is none. -/
theorem test_witness_DrawFlipsExactlyTheSprite_flag :
    let s := dot (poke (State.reset.setI 0xFFF) 0xFFF 0x01) 31 63
    let s := s.setReg 0 56 |>.setReg 1 31
    (s.fb.pixel 31 63 = true ∧ s.spriteCovers 0 1 1 31 63 = true) ∧ State.reset.fb.pixel 31 63 = false := by decide

theorem test_witness_DrawTwiceRestores :
    (0 : Reg) ≠ Reg.vf ∧ (1 : Reg) ≠ Reg.vf ∧ (State.reset.setI 0xFFF).i.toNat + (1 : Nibble).val - 1 ≤ 4095 ∧
      (let s := poke (State.reset.setI 0xFFF) 0xFFF 0x01
       s.fb.pixel 0 7 = false ∧ s.spriteCovers 0 1 1 0 7 = true) := by decide

/-- No cell at all is under the sprite of no rows. -/
theorem test_witness_DrawTwiceRestores_clear :
    ∀ row < 32, ∀ col < 64, State.reset.fb.pixel row col = false → State.reset.spriteCovers 0 1 0 row col = false := by
  intro row _ col _ _
  simp [State.spriteCovers]
  omega

theorem test_witness_SkipOnKey :
    (withV 5 15).reg 5 = 15 ∧ ((withV 5 15).reg 5).toNat = (15 : Fin 16).val ∧ 15 < ((withV 5 16).reg 5).toNat := by decide

theorem test_witness_WaitForLowestKey :
    (press State.reset 15).keys.get 15 = true ∧ (∀ j : Fin 16, j < 15 → (press State.reset 15).keys.get j = false) ∧
    ∀ k : Fin 16, State.reset.keys.get k = false := by decide

theorem test_witness_LoadProgramAllOrNothing :
    State.reset.mem.wf = true ∧ 3584 < (List.replicate 3585 (0xFF : Byte)).length ∧
    (List.replicate 3584 (0xFF : Byte)).length ≤ 3584 := ⟨rfl, by rw [List.length_replicate]; decide, by rw [List.length_replicate]⟩

/-- Two ways to the same memory: listed, and written. -/
theorem test_witness_CanonicalMemoryIsUnique :
    Memory.wf [(0x200, 0x12)] = true ∧ (Memory.write [] 0x200 0x12).wf = true ∧
      ∀ a, Memory.read [(0x200, 0x12)] a = (Memory.write [] 0x200 0x12).read a := ⟨by decide, by decide, fun _ => rfl⟩

/-- A state in which a CALL has been made. -/
def called : State := at_ { nested 1 0x204 with pc := 0x20A } 0x00EE

theorem test_witness_Inv : called.Inv where
  mem_wf := by decide
  slots_fetchable := by decide
  slot_zero := by decide
  pc_bound := by decide
  fault_reported := fun k h => by cases h

theorem test_witness_StepKeepsInvariant : called.Inv ∧ ∃ t, Sys2Proof.Machine.step called = .next t :=
  ⟨test_witness_Inv, _, rfl⟩

theorem test_witness_HostKeepsInvariant : called.Inv ∧ ∃ t, perform (.load [0x12, 0x00]) called = .next t :=
  ⟨test_witness_Inv, _, rfl⟩

theorem test_witness_SelfJumpStays : (at_ State.reset 0x1200).atSelfJump := ⟨by decide, 0x1200, by decide, by decide⟩

/-- A step of a store, and a load of a program, with a pixel lit. -/
theorem test_witness_FrameBufferMutatedOnlyByClsAndDrw :
    let s := at_ ((dot State.reset 31 63).setI 0x300) 0xFF55
    (∃ t, perform .step s = .next t) ∧ HostAction.step ≠ .reset ∧
      (s.nextInstr ≠ some .cls ∧ ∀ x y n, s.nextInstr ≠ some (.drw x y n)) ∧
      (∃ t, perform (.load [0x12]) s = .next t) ∧ HostAction.load [0x12] ≠ .reset ∧ HostAction.load [0x12] ≠ .step := by
  have h : (at_ ((dot State.reset 31 63).setI 0x300) 0xFF55).nextInstr = some (.storeRegs 15) := by decide
  exact ⟨⟨_, rfl⟩, by decide, ⟨fun e => (by cases h.symm.trans e), fun _ _ _ e => (by cases h.symm.trans e)⟩, ⟨_, rfl⟩, by decide, by decide⟩

end Sys2Proof.Tests
end

namespace Sys2Proof.Machine

/-! ### Who writes the frame buffer (spec/10_state.md R35) -/

@[simp] theorem State.skipIf_fb (s : State) (c : Bool) : (s.skipIf c).fb = s.fb := by
  rw [State.skipIf_eq, State.setPc_fb]

/-- A bounds-checked instruction keeps the frame buffer if its body does: the raise does. -/
theorem withinMemory_keeps_fb {last : Nat} {s t : State} {body : State → Answer} (h : withinMemory last s body = .next t)
    (hbody : body s = .next t → t.fb = s.fb) : t.fb = s.fb := by
  rcases withinMemory_next h with ⟨-, hb⟩ | ⟨-, rfl⟩
  · exact hbody hb
  · rfl

/-- A key skip keeps the frame buffer, whichever way it reads its key. -/
theorem withKey_skipIf_keeps_fb {x : Reg} {s t : State} {c : Bool → Bool}
    (h : withKey x s (fun pressed s => .next (s.skipIf (c pressed))) = .next t) : t.fb = s.fb := by
  rcases withKey_next h with ⟨hk, hb⟩ | ⟨-, rfl⟩
  · cases hb
    exact State.skipIf_fb s _
  · rfl

/-- No instruction but CLS and DRW writes the frame buffer. -/
theorem exec_keeps_fb {i : Instr} {s t : State} (h : exec i s = .next t) (hcls : i ≠ .cls)
    (hdrw : ∀ x y n, i ≠ .drw x y n) : t.fb = s.fb := by
  cases i with
  | cls => exact absurd rfl hcls
  | drw x y n => exact absurd rfl (hdrw x y n)
  | ret =>
    simp only [exec, execRet] at h
    split_ifs at h <;> cases h <;> rfl
  | call nnn =>
    simp only [exec, execCall] at h
    split_ifs at h <;> cases h <;> rfl
  | ldKey x =>
    simp only [exec, execLdKey] at h
    split at h <;> cases h <;> rfl
  | ldBcd x | storeRegs x | loadRegs x =>
    simp only [exec, execLdBcd, execStoreRegs, execLoadRegs] at h
    exact withinMemory_keeps_fb h fun hb => by cases hb; rfl
  | skp x => exact withKey_skipIf_keeps_fb (c := id) h
  | sknp x => exact withKey_skipIf_keeps_fb (c := not) h
  | seImm x kk | sneImm x kk | seReg x y | sneReg x y =>
    cases h
    exact State.skipIf_fb s _
  | jp _ | ldImm _ _ | addImm _ _ | ldReg _ _ | orReg _ _ | andReg _ _ | xorReg _ _ | addReg _ _ | subReg _ _
  | shr _ _ | subn _ _ | shl _ _ | ldI _ | jpV0 _ | rnd _ _ | ldFromDt _ | ldDt _ | ldSt _ | addI _ | ldFont _ =>
    cases h
    rfl

/-- The end of a step keeps the frame buffer the execute phase left. -/
theorem finishStep_fb {a : Answer} {t : State} (h : finishStep a = .next t) : ∃ u, a = .next u ∧ t.fb = u.fb := by
  obtain ⟨u, hu, ⟨-, rfl⟩ | ⟨-, rfl⟩⟩ := finishStep_next h <;> exact ⟨_, hu, rfl⟩

/-- A fetched word that decodes is the instruction the next step runs. -/
theorem State.nextInstr_of_decode {s : State} {op : Word} {i : Instr} (hf : s.fetch = some op) (hd : decodeOp op = .ok i) :
    s.nextInstr = some i := by
  simp only [State.nextInstr, hf, hd, Except.toOption]

/-- A step changes the frame buffer only if the word it fetches is a CLS or a DRW: the latch, a failed fetch and an unknown
opcode leave it alone. -/
theorem step_keeps_fb {s t : State} (h : step s = .next t) (hcls : s.nextInstr ≠ some .cls)
    (hdrw : ∀ x y n, s.nextInstr ≠ some (.drw x y n)) : t.fb = s.fb := by
  rcases step_cases h with ⟨_, -, rfl⟩ | ⟨-, -, rfl⟩ | ⟨_, _, -, -, -, rfl⟩ | ⟨op, i, -, hf, hd, hfin⟩
  · rfl
  · rfl
  · rfl
  · have hi : s.nextInstr = some i := State.nextInstr_of_decode hf hd
    obtain ⟨u, hu, hfb⟩ := finishStep_fb hfin
    calc t.fb = u.fb := hfb
      _ = s.clearFlags.fb := exec_keeps_fb hu (fun e => hcls (e ▸ hi)) fun x y n e => hdrw x y n (e ▸ hi)
      _ = s.fb := State.clearFlags_fb s

/-- A program load writes memory alone, if anything. -/
theorem loadProgram_fb (bytes : List Byte) (s : State) : (loadProgram bytes s).2.fb = s.fb := by
  unfold loadProgram
  split_ifs <;> rfl

/-- Settles O60, by cases on the request: a load and a key update do not reach the frame buffer, and a step only through CLS
or DRW (`step_keeps_fb`). -/
theorem frameBufferMutatedOnlyByClsAndDrw : Obligations.FrameBufferMutatedOnlyByClsAndDrw := by
  intro a s t h hreset hstep
  cases a with
  | reset => exact absurd rfl hreset
  | load bytes =>
    cases h
    exact loadProgram_fb bytes s
  | keys k =>
    cases h
    rfl
  | step =>
    obtain ⟨hcls, hdrw⟩ := hstep rfl
    exact step_keeps_fb h hcls hdrw

end Sys2Proof.Machine

namespace Sys2Proof.Machine

/-! ### The timers across a step (spec/40_cycle.md R129) -/

@[simp] theorem State.skipIf_dt (s : State) (c : Bool) : (s.skipIf c).dt = s.dt := by
  rw [State.skipIf_eq, State.setPc_dt]

@[simp] theorem State.skipIf_st (s : State) (c : Bool) : (s.skipIf c).st = s.st := by
  rw [State.skipIf_eq, State.setPc_st]

/-- No instruction but Fx15 and Fx18 writes a timer (spec/10_state.md R20). -/
theorem exec_keeps_timers {i : Instr} {s t : State} (h : exec i s = .next t) (hdt : ∀ x, i ≠ .ldDt x)
    (hst : ∀ x, i ≠ .ldSt x) : t.dt = s.dt ∧ t.st = s.st := by
  cases i with
  | ldDt x => exact absurd rfl (hdt x)
  | ldSt x => exact absurd rfl (hst x)
  | ret =>
    simp only [exec, execRet] at h
    split_ifs at h <;> cases h <;> exact ⟨rfl, rfl⟩
  | call nnn =>
    simp only [exec, execCall] at h
    split_ifs at h <;> cases h <;> exact ⟨rfl, rfl⟩
  | ldKey x =>
    simp only [exec, execLdKey] at h
    split at h <;> cases h <;> exact ⟨rfl, rfl⟩
  | ldBcd x | storeRegs x | loadRegs x =>
    simp only [exec, execLdBcd, execStoreRegs, execLoadRegs] at h
    rcases withinMemory_next h with ⟨-, hb⟩ | ⟨-, rfl⟩
    · cases hb
      exact ⟨rfl, rfl⟩
    · exact ⟨rfl, rfl⟩
  | drw x y n =>
    simp only [exec, execDrw] at h
    split_ifs at h
    · cases h
      exact ⟨rfl, rfl⟩
    · rcases withinMemory_next h with ⟨-, hb⟩ | ⟨-, rfl⟩
      · cases hb
        exact ⟨rfl, rfl⟩
      · exact ⟨rfl, rfl⟩
  | skp x | sknp x =>
    simp only [exec, execSkp, execSknp] at h
    rcases withKey_next h with ⟨_, hb⟩ | ⟨-, rfl⟩
    · cases hb
      exact ⟨State.skipIf_dt s _, State.skipIf_st s _⟩
    · exact ⟨rfl, rfl⟩
  | seImm x kk | sneImm x kk | seReg x y | sneReg x y =>
    cases h
    exact ⟨State.skipIf_dt s _, State.skipIf_st s _⟩
  | cls | jp _ | ldImm _ _ | addImm _ _ | ldReg _ _ | orReg _ _ | andReg _ _ | xorReg _ _ | addReg _ _ | subReg _ _
  | shr _ _ | subn _ _ | shl _ _ | ldI _ | jpV0 _ | rnd _ _ | ldFromDt _ | addI _ | ldFont _ =>
    cases h
    exact ⟨rfl, rfl⟩

theorem State.dtAtDecay_of_ldDt {s : State} {x : Reg} (hi : s.nextInstr = some (.ldDt x)) : s.dtAtDecay = s.reg x := by
  simp only [State.dtAtDecay, hi]

theorem State.dtAtDecay_of_ne {s : State} {i : Instr} (hi : s.nextInstr = some i) (hne : ∀ x, i ≠ .ldDt x) :
    s.dtAtDecay = s.dt := by
  simp only [State.dtAtDecay, hi]
  split
  · rename_i x hx
    exact absurd (Option.some.inj hx) (hne x)
  · rfl

theorem State.stAtDecay_of_ldSt {s : State} {x : Reg} (hi : s.nextInstr = some (.ldSt x)) : s.stAtDecay = s.reg x := by
  simp only [State.stAtDecay, hi]

theorem State.stAtDecay_of_ne {s : State} {i : Instr} (hi : s.nextInstr = some i) (hne : ∀ x, i ≠ .ldSt x) :
    s.stAtDecay = s.st := by
  simp only [State.stAtDecay, hi]
  split
  · rename_i x hx
    exact absurd (Option.some.inj hx) (hne x)
  · rfl

/-- The execute phase leaves the timers at the values the decay is to find. -/
theorem exec_leaves_timersAtDecay {s u : State} {i : Instr} (hi : s.nextInstr = some i)
    (h : exec i s.clearFlags = .next u) : u.dt = s.dtAtDecay ∧ u.st = s.stAtDecay := by
  by_cases hdt : ∃ x, i = .ldDt x
  · obtain ⟨x, rfl⟩ := hdt
    cases h
    exact ⟨(State.dtAtDecay_of_ldDt hi).symm, (State.stAtDecay_of_ne hi (by simp)).symm⟩
  by_cases hst : ∃ x, i = .ldSt x
  · obtain ⟨x, rfl⟩ := hst
    cases h
    exact ⟨(State.dtAtDecay_of_ne hi (by simp)).symm, (State.stAtDecay_of_ldSt hi).symm⟩
  · push Not at hdt hst
    rw [State.dtAtDecay_of_ne hi hdt, State.stAtDecay_of_ne hi hst]
    simpa using exec_keeps_timers h hdt hst

/-- The next instruction is what the fetched word decodes to. -/
theorem State.nextInstr_eq_some {s : State} {i : Instr} :
    s.nextInstr = some i ↔ ∃ op, s.fetch = some op ∧ decodeOp op = .ok i := by
  constructor
  · intro h
    cases hf : s.fetch with
    | none => simp [State.nextInstr, hf] at h
    | some op =>
      cases hd : decodeOp op with
      | error e => simp [State.nextInstr, hf, hd, Except.toOption] at h
      | ok j =>
        rw [State.nextInstr_of_decode hf hd] at h
        cases h
        exact ⟨op, rfl, hd⟩
  · rintro ⟨op, hf, hd⟩
    exact State.nextInstr_of_decode hf hd

/-- An unlatched machine with an instruction at PC runs it (spec/40_cycle.md R120). -/
theorem step_of_nextInstr {s : State} {i : Instr} (hs : s.fault = none) (hi : s.nextInstr = some i) :
    step s = finishStep (exec i s.clearFlags) := by
  obtain ⟨op, hf, hd⟩ := State.nextInstr_eq_some.1 hi
  have hf' : s.clearFlags.fetch = some op := hf
  simp only [step, cycle, hs, runFetched, hf', runOpcode, hd]

/-- A step that ends without a fault is its execute phase, which completes, then the decay and the result Ok
(spec/40_cycle.md R120, R129, R132). -/
theorem step_completes {s t : State} {i : Instr} (hs : s.fault = none) (hi : s.nextInstr = some i)
    (h : step s = .next t) (ht : t.fault = none) :
    ∃ u, exec i s.clearFlags = .next u ∧ Completes i s.clearFlags u ∧ t = u.decay.report .ok := by
  rw [step_of_nextInstr hs hi] at h
  obtain ⟨u, hu, ⟨hfault, rfl⟩ | ⟨hfault, rfl⟩⟩ := finishStep_next h
  · rw [ht] at hfault
    cases hfault
  · rcases exec_cases hu with ⟨k, info, -, rfl⟩ | hc
    · cases hfault
    · exact ⟨u, hu, hc, rfl⟩

/-- The decay's test of ST, as a number. -/
theorem bne_zero_iff_toNat_pos (b : Byte) : (b != 0) = true ↔ 0 < b.toNat := by
  rw [bne_iff_ne, Nat.pos_iff_ne_zero, ne_eq, BitVec.toNat_eq]
  rfl

/-- Settles O15: the execute phase leaves the timers at `dtAtDecay` and `stAtDecay` and TONE at false, and the decay then
takes 1 from each timer and sets TONE from ST; an Fx07 read DT in the execute phase. -/
theorem timersDecayAfterExecute : Obligations.TimersDecayAfterExecute := by
  intro s t i hs hi h ht
  obtain ⟨u, hu, ⟨-, -, -, -, htone, -⟩, rfl⟩ := step_completes hs hi h ht
  obtain ⟨hdt, hst⟩ := exec_leaves_timersAtDecay hi hu
  refine ⟨?_, ?_, ?_, ?_⟩
  · rw [State.report_dt, State.decay_dt, tick_toNat, hdt]
  · rw [State.report_st, State.decay_st, tick_toNat, hst]
  · rw [State.report_tone, State.decay_tone, htone, State.clearFlags_tone, Bool.false_or, hst, bne_zero_iff_toNat_pos]
  · rintro x rfl
    cases hu
    rw [State.reg_report, State.reg_decay, State.reg_advance, State.reg_setReg, if_pos rfl, State.clearFlags_dt]

end Sys2Proof.Machine

namespace Sys2Proof

open Sys2Proof.Machine

/-! ### Decoding the encoding, and back (spec/30_encoding.md R93, R94) -/

/-- Decoding undoes encoding: each format gives its fields back. -/
theorem decodeOp_encode {i : Instr} (hwf : i.wellFormed = true) : decodeOp (encode i) = .ok i := by
  cases i with
  | cls | ret => rfl
  | jp nnn | call nnn | ldI nnn | jpV0 nnn => simp [encode, decodeOp, fieldNnn_packNnn _ hwf]
  | seImm x kk | sneImm x kk | ldImm x kk | addImm x kk | rnd x kk => simp [encode, decodeOp]
  | seReg x y | sneReg x y | drw x y n => simp [encode, decodeOp]
  | ldReg x y | orReg x y | andReg x y | xorReg x y | addReg x y | subReg x y | shr x y | subn x y | shl x y =>
    simp [encode, decodeOp, decodeFamily8]
  | skp x | sknp x => simp [encode, decodeOp, decodeFamilyE]
  | ldFromDt x | ldKey x | ldDt x | ldSt x | addI x | ldFont x | ldBcd x | storeRegs x | loadRegs x =>
    simp [encode, decodeOp, decodeFamilyF]

/-- Settles O1: `decodeOp_encode` on the word; the two bytes in memory order make the word again. -/
theorem encodeThenDecode : Obligations.EncodeThenDecode := by
  intro i hwf
  refine ⟨decodeOp_encode hwf, fun rest => ?_⟩
  simp only [encodeBytes, List.cons_append, List.nil_append, decode, opcodeOf_bytes, decodeOp_encode hwf, Except.map]

/-- A word of format NNN is packed from its family and its address. -/
theorem packNnn_of_family {op : Word} {f : BitVec 4} (hf : fieldFamily op = f) : packNnn f (fieldNnn op) = op := by
  rw [← hf, packNnn_fields]

/-- A word of format XKK or XB is packed from its family, its register and its low byte. -/
theorem packXkk_of_family {op : Word} {f : BitVec 4} {kk : Byte} (hf : fieldFamily op = f) (hkk : fieldKk op = kk) :
    packXkk f (fieldX op) kk = op := by
  rw [← hf, ← hkk, packXkk_fields]

/-- A word of format XY or XYN is packed from its family, its registers and its low nibble. -/
theorem packXyn_of_family {op : Word} {f n : BitVec 4} (hf : fieldFamily op = f) (hn : fieldN op = n) :
    packXyn f (fieldX op) (fieldY op) n = op := by
  rw [← hf, ← hn, packXyn_fields]

theorem encode_of_decodeFamily0 {op : Word} {i : Instr} (h : decodeFamily0 op = .ok i) :
    encode i = op ∧ i.wellFormed = true := by
  unfold decodeFamily0 at h
  split_ifs at h with hcls hret
  · cases h
    exact ⟨hcls.symm, rfl⟩
  · cases h
    exact ⟨hret.symm, rfl⟩

theorem encode_of_decodeFamily8 {op : Word} {i : Instr} (hf : fieldFamily op = 0x8) (h : decodeFamily8 op = .ok i) :
    encode i = op ∧ i.wellFormed = true := by
  unfold decodeFamily8 at h
  split at h
  case h_10 => cases h
  all_goals
    cases h
    exact ⟨packXyn_of_family hf ‹_›, rfl⟩

theorem encode_of_decodeFamilyE {op : Word} {i : Instr} (hf : fieldFamily op = 0xE) (h : decodeFamilyE op = .ok i) :
    encode i = op ∧ i.wellFormed = true := by
  unfold decodeFamilyE at h
  split at h
  case h_3 => cases h
  all_goals
    cases h
    exact ⟨packXkk_of_family hf ‹_›, rfl⟩

theorem encode_of_decodeFamilyF {op : Word} {i : Instr} (hf : fieldFamily op = 0xF) (h : decodeFamilyF op = .ok i) :
    encode i = op ∧ i.wellFormed = true := by
  unfold decodeFamilyF at h
  split at h
  case h_10 => cases h
  all_goals
    cases h
    exact ⟨packXkk_of_family hf ‹_›, rfl⟩

end Sys2Proof

namespace Sys2Proof

open Sys2Proof.Machine

/-- What decodes is the encoding of what it decodes to: by the family, no field is dropped (spec/30_encoding.md R93). -/
theorem encode_of_decodeOp {op : Word} {i : Instr} (h : decodeOp op = .ok i) : encode i = op ∧ i.wellFormed = true := by
  match hf : fieldFamily op with
  | 0x0 =>
    simp only [decodeOp, hf] at h
    exact encode_of_decodeFamily0 h
  | 0x1 | 0x2 | 0xA | 0xB =>
    simp only [decodeOp, hf] at h
    cases h
    exact ⟨packNnn_of_family hf, fitsNnn_fieldNnn op⟩
  | 0x3 | 0x4 | 0x6 | 0x7 | 0xC =>
    simp only [decodeOp, hf] at h
    cases h
    exact ⟨packXkk_of_family hf rfl, rfl⟩
  | 0x5 | 0x9 =>
    simp only [decodeOp, hf] at h
    split_ifs at h with hn
    cases h
    exact ⟨packXyn_of_family hf hn, rfl⟩
  | 0x8 =>
    simp only [decodeOp, hf] at h
    exact encode_of_decodeFamily8 hf h
  | 0xD =>
    simp only [decodeOp, hf] at h
    cases h
    exact ⟨packXyn_of_family hf rfl, rfl⟩
  | 0xE =>
    simp only [decodeOp, hf] at h
    exact encode_of_decodeFamilyE hf h
  | 0xF =>
    simp only [decodeOp, hf] at h
    exact encode_of_decodeFamilyF hf h
  | ⟨⟨_ + 16, _⟩⟩ => omega

/-- A masked word keeps a field that the mask covers. -/
theorem fieldFamily_of_and {op m p : Word} (hm : fieldFamily m = 0xF#4) (h : op &&& m = p) :
    fieldFamily op = fieldFamily p := by
  rw [← h, fieldFamily, fieldFamily, BitVec.extractLsb'_and]
  exact (hm ▸ Laws.EncodeRow.and_ones4 _).symm

theorem fieldN_of_and {op m p : Word} (hm : fieldN m = 0xF#4) (h : op &&& m = p) : fieldN op = fieldN p := by
  rw [← h, fieldN, fieldN, BitVec.extractLsb'_and]
  exact (hm ▸ Laws.EncodeRow.and_ones4 _).symm

theorem fieldKk_of_and {op m p : Word} (hm : fieldKk m = 0xFF#8) (h : op &&& m = p) : fieldKk op = fieldKk p := by
  rw [← h, fieldKk, fieldKk, BitVec.extractLsb'_and]
  exact (hm ▸ Laws.EncodeRow.and_ones8 _).symm

/-- The instructions of the opcode table's rows, in the table's order, with the fields of a word as their operands
(spec/30_encoding.md R92, R95). -/
def rowInstr : Vector (Word → Instr) 34 :=
  #v[fun _ => .cls, fun _ => .ret, fun op => .jp (fieldNnn op), fun op => .call (fieldNnn op),
     fun op => .seImm (fieldX op) (fieldKk op), fun op => .sneImm (fieldX op) (fieldKk op),
     fun op => .seReg (fieldX op) (fieldY op),
     fun op => .ldImm (fieldX op) (fieldKk op), fun op => .addImm (fieldX op) (fieldKk op),
     fun op => .ldReg (fieldX op) (fieldY op), fun op => .orReg (fieldX op) (fieldY op),
     fun op => .andReg (fieldX op) (fieldY op), fun op => .xorReg (fieldX op) (fieldY op),
     fun op => .addReg (fieldX op) (fieldY op), fun op => .subReg (fieldX op) (fieldY op),
     fun op => .shr (fieldX op) (fieldY op), fun op => .subn (fieldX op) (fieldY op),
     fun op => .shl (fieldX op) (fieldY op), fun op => .sneReg (fieldX op) (fieldY op),
     fun op => .ldI (fieldNnn op), fun op => .jpV0 (fieldNnn op), fun op => .rnd (fieldX op) (fieldKk op),
     fun op => .drw (fieldX op) (fieldY op) (fieldN op).toFin,
     fun op => .skp (fieldX op), fun op => .sknp (fieldX op),
     fun op => .ldFromDt (fieldX op), fun op => .ldKey (fieldX op), fun op => .ldDt (fieldX op),
     fun op => .ldSt (fieldX op), fun op => .addI (fieldX op), fun op => .ldFont (fieldX op),
     fun op => .ldBcd (fieldX op), fun op => .storeRegs (fieldX op), fun op => .loadRegs (fieldX op)]

theorem row_rowInstr (r : Fin 34) (op : Word) : (rowInstr.get r op).row = r := by
  fin_cases r <;> rfl

/-- Every mask of the table covers the family. -/
theorem fieldFamily_rowMask : ∀ r : Fin 34, fieldFamily (rowMask.get r) = 0xF#4 := by decide

/-- Every word that selects a row decodes to the row's instruction: the match fixes the family, and in families 5, 8 and 9
the low nibble, in families E and F the low byte, in family 0 the whole word. -/
theorem decodesTo_rowInstr (r : Fin 34) : DecodesTo (rowMask.get r) (rowMatch.get r) (rowInstr.get r) := by
  intro op h
  have hf := fieldFamily_of_and (fieldFamily_rowMask r) h
  match r with
  | 0 | 1 =>
    have hop : op &&& 0xFFFF = op := BitVec.and_allOnes
    rw [hop.symm.trans h]
    rfl
  | 2 | 3 | 4 | 5 | 7 | 8 | 19 | 20 | 21 | 22 =>
    simp only [decodeOp, hf]
    rfl
  | 6 | 9 | 10 | 11 | 12 | 13 | 14 | 15 | 16 | 17 | 18 =>
    have hn := fieldN_of_and (m := 0xF00F) rfl h
    simp only [decodeOp, decodeFamily8, hf, hn]
    rfl
  | 23 | 24 | 25 | 26 | 27 | 28 | 29 | 30 | 31 | 32 | 33 =>
    have hkk := fieldKk_of_and (m := 0xF0FF) rfl h
    simp only [decodeOp, decodeFamilyE, decodeFamilyF, hf, hkk]
    rfl
  | ⟨_ + 34, _⟩ => omega

theorem selectsRow_iff {op : Word} {r : Fin 34} : selectsRow op r = true ↔ op &&& rowMask.get r = rowMatch.get r :=
  beq_iff_eq

/-- The word of an instruction selects its own row. -/
theorem selectsRow_encode (i : Instr) : selectsRow (encode i) i.row = true :=
  match i with
  | .cls => Laws.EncodeRow.cls
  | .ret => Laws.EncodeRow.ret
  | .jp nnn => Laws.EncodeRow.jp nnn
  | .call nnn => Laws.EncodeRow.call nnn
  | .seImm x kk => Laws.EncodeRow.seImm x kk
  | .sneImm x kk => Laws.EncodeRow.sneImm x kk
  | .seReg x y => Laws.EncodeRow.seReg x y
  | .ldImm x kk => Laws.EncodeRow.ldImm x kk
  | .addImm x kk => Laws.EncodeRow.addImm x kk
  | .ldReg x y => Laws.EncodeRow.ldReg x y
  | .orReg x y => Laws.EncodeRow.orReg x y
  | .andReg x y => Laws.EncodeRow.andReg x y
  | .xorReg x y => Laws.EncodeRow.xorReg x y
  | .addReg x y => Laws.EncodeRow.addReg x y
  | .subReg x y => Laws.EncodeRow.subReg x y
  | .shr x y => Laws.EncodeRow.shr x y
  | .subn x y => Laws.EncodeRow.subn x y
  | .shl x y => Laws.EncodeRow.shl x y
  | .sneReg x y => Laws.EncodeRow.sneReg x y
  | .ldI nnn => Laws.EncodeRow.ldI nnn
  | .jpV0 nnn => Laws.EncodeRow.jpV0 nnn
  | .rnd x kk => Laws.EncodeRow.rnd x kk
  | .drw x y n => Laws.EncodeRow.drw x y n
  | .skp x => Laws.EncodeRow.skp x
  | .sknp x => Laws.EncodeRow.sknp x
  | .ldFromDt x => Laws.EncodeRow.ldFromDt x
  | .ldKey x => Laws.EncodeRow.ldKey x
  | .ldDt x => Laws.EncodeRow.ldDt x
  | .ldSt x => Laws.EncodeRow.ldSt x
  | .addI x => Laws.EncodeRow.addI x
  | .ldFont x => Laws.EncodeRow.ldFont x
  | .ldBcd x => Laws.EncodeRow.ldBcd x
  | .storeRegs x => Laws.EncodeRow.storeRegs x
  | .loadRegs x => Laws.EncodeRow.loadRegs x

/-- Settles O2: `encode_of_decodeOp`. -/
theorem decodeThenEncode : Obligations.DecodeThenEncode := fun _ _ => encode_of_decodeOp

/-- Settles O3: a word that selects a row decodes to the row's instruction; a word that decodes is an encoding, and that
selects its own row. -/
theorem opcodeTableSelectsInstruction : Obligations.OpcodeTableSelectsInstruction := by
  intro op r
  constructor
  · intro h
    exact ⟨_, decodesTo_rowInstr r op (selectsRow_iff.1 h), row_rowInstr r op⟩
  · rintro ⟨i, hd, rfl⟩
    obtain ⟨rfl, -⟩ := encode_of_decodeOp hd
    exact selectsRow_encode i

/-! ### Unknown opcodes (spec/30_encoding.md R101) -/

theorem fieldFamily_toNat (op : Word) : (fieldFamily op).toNat = op.toNat / 4096 := by
  have := op.isLt
  rw [fieldFamily, BitVec.extractLsb'_toNat, Nat.shiftRight_eq_div_pow]
  omega

theorem fieldN_toNat (op : Word) : (fieldN op).toNat = op.toNat % 16 := by
  rw [fieldN, BitVec.extractLsb'_toNat, Nat.shiftRight_zero]

theorem fieldKk_toNat (op : Word) : (fieldKk op).toNat = op.toNat % 256 := by
  rw [fieldKk, BitVec.extractLsb'_toNat, Nat.shiftRight_zero]

/-- The decoder's answer `a` on the word `op` rejects it as unknown exactly if `bad`, and is an instruction otherwise. -/
def RejectsIf (bad : Prop) (op : Word) (a : Except Reject Instr) : Prop :=
  (bad ∧ a = .error (.unknownOpcode op)) ∨ (¬ bad ∧ ∃ i, a = .ok i)

theorem RejectsIf.total {bad : Prop} {op : Word} {a : Except Reject Instr} (h : RejectsIf bad op a) :
    (∃ i, a = .ok i) ∨ a = .error (.unknownOpcode op) :=
  h.elim (fun h => .inr h.2) fun h => .inl h.2

theorem RejectsIf.error_iff {bad : Prop} {op : Word} {a : Except Reject Instr} (h : RejectsIf bad op a) :
    (∃ e, a = .error e) ↔ bad := by
  obtain ⟨hbad, rfl⟩ | ⟨hgood, i, rfl⟩ := h
  · exact iff_of_true ⟨_, rfl⟩ hbad
  · exact iff_of_false (fun ⟨_, he⟩ => by cases he) hgood

theorem RejectsIf.congr {bad bad' : Prop} {op : Word} {a : Except Reject Instr} (h : RejectsIf bad op a)
    (hb : bad' ↔ bad) : RejectsIf bad' op a := by
  rwa [RejectsIf, hb]

/-- An answer that is an instruction, where nothing is bad. -/
theorem RejectsIf.ok {bad : Prop} (op : Word) (i : Instr) (hb : ¬ bad) : RejectsIf bad op (.ok i) := .inr ⟨hb, i, rfl⟩

theorem decodeFamily0_rejectsIf (op : Word) : RejectsIf (op ≠ 0x00E0 ∧ op ≠ 0x00EE) op (decodeFamily0 op) := by
  unfold decodeFamily0
  split_ifs with hcls hret
  · exact .ok _ _ fun h => h.1 hcls
  · exact .ok _ _ fun h => h.2 hret
  · exact .inl ⟨⟨hcls, hret⟩, rfl⟩

theorem decodeFamily8_rejectsIf (op : Word) :
    RejectsIf ((fieldN op).toNat ∈ [8, 9, 10, 11, 12, 13, 15]) op (decodeFamily8 op) := by
  unfold decodeFamily8
  split
  case h_10 =>
    refine .inl ⟨?_, rfl⟩
    simp only [imp_false] at *
    have := (fieldN op).isLt
    simp only [List.mem_cons, List.not_mem_nil]
    bv_omega
  all_goals exact .ok _ _ (by simp [*])

theorem decodeFamilyE_rejectsIf (op : Word) : RejectsIf ((fieldKk op).toNat ∉ [0x9E, 0xA1]) op (decodeFamilyE op) := by
  unfold decodeFamilyE
  split
  case h_3 =>
    refine .inl ⟨?_, rfl⟩
    simp only [imp_false, ← BitVec.toNat_inj] at *
    simp_all
  all_goals exact .ok _ _ (by simp [*])

theorem decodeFamilyF_rejectsIf (op : Word) :
    RejectsIf ((fieldKk op).toNat ∉ [0x07, 0x0A, 0x15, 0x18, 0x1E, 0x29, 0x33, 0x55, 0x65]) op (decodeFamilyF op) := by
  unfold decodeFamilyF
  split
  case h_10 =>
    refine .inl ⟨?_, rfl⟩
    simp only [imp_false, ← BitVec.toNat_inj] at *
    simp_all
  all_goals exact .ok _ _ (by simp [*])

/-- Families 5 and 9: the low nibble must be 0 (spec/30_encoding.md R102). -/
theorem strictNibble_rejectsIf (op : Word) (i : Instr) :
    RejectsIf ((fieldN op).toNat ≠ 0) op (if fieldN op = 0 then .ok i else .error (.unknownOpcode op)) := by
  split_ifs with hn
  · exact .ok _ _ (by simp [hn])
  · exact .inl ⟨fun h => hn (BitVec.eq_of_toNat_eq h), rfl⟩

/-- Settles O4: by the family; in the families the table does not list every word is an instruction. -/
theorem unknownOpcodesExactly : Obligations.UnknownOpcodesExactly := by
  intro op
  suffices h : RejectsIf _ op (decodeOp op) from ⟨h.total, h.error_iff⟩
  rw [← fieldFamily_toNat, ← fieldN_toNat, ← fieldKk_toNat]
  match hf : fieldFamily op with
  | 0x0 =>
    simp only [decodeOp, hf]
    exact (decodeFamily0_rejectsIf op).congr (by simp)
  | 0x1 | 0x2 | 0x3 | 0x4 | 0x6 | 0x7 | 0xA | 0xB | 0xC | 0xD =>
    simp only [decodeOp, hf]
    exact .ok _ _ (by simp)
  | 0x5 | 0x9 =>
    simp only [decodeOp, hf]
    exact (strictNibble_rejectsIf op _).congr (by simp)
  | 0x8 =>
    simp only [decodeOp, hf]
    exact (decodeFamily8_rejectsIf op).congr (by simp)
  | 0xE =>
    simp only [decodeOp, hf]
    exact (decodeFamilyE_rejectsIf op).congr (by simp)
  | 0xF =>
    simp only [decodeOp, hf]
    exact (decodeFamilyF_rejectsIf op).congr (by simp)
  | ⟨⟨_ + 16, _⟩⟩ => omega

/-- Settles O5, by evaluating the decoder on each word. -/
theorem specWordsDecode : Obligations.SpecWordsDecode := by
  unfold Obligations.SpecWordsDecode
  decide

end Sys2Proof

namespace Sys2Proof.Machine

/-! ### The execute phase as one function: an instruction raises what its table row says, or has its effect and moves PC
by its class (spec/60_exceptions.md R309, spec/40_cycle.md R126) -/

/-- The byte LD Vx, K writes: the number of the lowest key down; with none, Vx keeps its value
(spec/46_keypad_timers.md R284). -/
def State.keyByte (s : State) (x : Reg) : Byte := (s.lowestKey.map (BitVec.ofNat 8)).getD (s.reg x)

/-- What an instruction that does not raise writes beside PC. -/
def effect : Instr → State → State
  | .cls, s => (s.setFb FrameBuffer.blank).requestRedraw
  | .ret, s => { s with sp := s.sp - 1 }
  | .call nnn, s => (s.pushCall nnn).setPc s.pc
  | .ldImm x kk, s => s.setReg x kk
  | .addImm x kk, s => s.setReg x (sum8 (s.reg x) kk)
  | .ldReg x y, s => s.setReg x (s.reg y)
  | .orReg x y, s => s.setReg x (s.reg x ||| s.reg y)
  | .andReg x y, s => s.setReg x (s.reg x &&& s.reg y)
  | .xorReg x y, s => s.setReg x (s.reg x ^^^ s.reg y)
  | .addReg x y, s => s.setFlagged x (carry (s.reg x) (s.reg y)) (sum8 (s.reg x) (s.reg y))
  | .subReg x y, s => s.setFlagged x (noBorrow (s.reg x) (s.reg y)) (diff8 (s.reg x) (s.reg y))
  | .shr x _, s => s.setFlagged x (lowBit (s.reg x)) (shiftRight (s.reg x))
  | .subn x y, s => s.setFlagged x (noBorrow (s.reg y) (s.reg x)) (diff8 (s.reg y) (s.reg x))
  | .shl x _, s => s.setFlagged x (highBit (s.reg x)) (shiftLeft (s.reg x))
  | .ldI nnn, s => s.setI nnn
  | .rnd x kk, s => (s.setReg x (s.rnd &&& kk)).countDraw
  | .drw x y n, s => (s.draw x y n.val).setPc s.pc
  | .ldFromDt x, s => s.setReg x s.dt
  | .ldKey x, s => s.setReg x (s.keyByte x)
  | .ldDt x, s => s.setDt (s.reg x)
  | .ldSt x, s => s.setSt (s.reg x)
  | .addI x, s => s.setI (BitVec.ofNat 16 (s.i.toNat + (s.reg x).toNat))
  | .ldFont x, s => s.setI (glyphAddress (s.reg x))
  | .ldBcd x, s => s.setMem (s.mem.writeBytes s.i.toNat (bcdDigits (s.reg x)))
  | .storeRegs x, s => s.setMem (s.mem.writeBytes s.i.toNat (s.regsUpTo x))
  | .loadRegs x, s => s.setRegs (s.regsLoaded x)
  | .jp _, s | .jpV0 _, s | .seImm _ _, s | .sneImm _ _, s | .seReg _ _, s | .sneReg _ _, s | .skp _, s | .sknp _, s => s

/-- The state after an instruction that does not raise. -/
def completed (i : Instr) (s : State) : State := (effect i s).setPc (pcAfter s i)

/-- The state after the execute phase. -/
def outcome (i : Instr) (s : State) : State :=
  match raises s i with
  | some (kind, info) => s.raise kind info
  | none => completed i s

theorem outcome_of_raises {i : Instr} {s : State} {kind : Fault} {info : Nat} (h : raises s i = some (kind, info)) :
    outcome i s = s.raise kind info := by
  simp only [outcome, h]

theorem outcome_of_not_raises {i : Instr} {s : State} (h : raises s i = none) : outcome i s = completed i s := by
  simp only [outcome, h]

/-- Writing a register with its own value changes nothing. -/
theorem State.setReg_reg (s : State) (x : Reg) : s.setReg x (s.reg x) = s := by
  have h : s.v.set x.val (s.reg x) x.isLt = s.v := Vector.set_getElem_self x.isLt
  rw [State.setReg, h]

/-- An access that ends at `last`: the bounds check in the form of the table of what raises what. -/
theorem withinMemory_eq (last : Nat) (s : State) (body : State → Answer) :
    withinMemory last s body = if last > 4095 then .next (s.raise .addressOutOfRange last) else body s := by
  split_ifs with h
  · exact withinMemory_of_le s body h
  · exact withinMemory_of_lt s body (by omega)

/-- A skip on a key: the key-number check in the form of the table. -/
theorem withKey_skipIf_eq (x : Reg) (s : State) (c : Bool → Bool) :
    withKey x s (fun pressed s => .next (s.skipIf (c pressed))) =
      if (s.reg x).toNat > 15 then .next (s.raise .keyOutOfRange (s.reg x).toNat)
      else .next (s.setPc (pcSkip s (c (s.keyDown (s.reg x).toNat)))) := by
  unfold withKey
  by_cases hk : (s.reg x).toNat < 16
  · rw [dif_pos hk, if_neg (by omega)]
    simp [State.skipIf_eq, pcSkip, State.keyDown, hk, Vector.get]
  · rw [dif_neg hk, if_pos (by omega)]

/-- LD Vx, K completes whether or not a key is down. -/
theorem execLdKey_eq (x : Reg) (s : State) : execLdKey x s = .next (completed (.ldKey x) s) := by
  have hdone : completed (.ldKey x) s = (s.setReg x (s.keyByte x)).setPc (if s.anyKey then s.pc + 2 else s.pc) := rfl
  rw [hdone, State.keyByte, ← isSome_lowestKey, execLdKey]
  cases s.lowestKey with
  | some k => rfl
  | none => exact congrArg (fun u : State => (.next (u.setPc s.pc) : Answer)) (State.setReg_reg s x).symm

/-- Every instruction in every state answers its outcome. -/
theorem exec_eq (i : Instr) (s : State) : exec i s = .next (outcome i s) := by
  cases i with
  | ret =>
    simp only [exec, execRet, outcome, raises]
    split_ifs <;> rfl
  | call nnn =>
    simp only [exec, execCall, outcome, raises]
    split_ifs <;> rfl
  | ldBcd x | storeRegs x | loadRegs x =>
    simp only [exec, execLdBcd, execStoreRegs, execLoadRegs, withinMemory_eq, outcome, raises]
    split_ifs <;> rfl
  | drw x y n =>
    simp only [exec, execDrw, withinMemory_eq, outcome, raises]
    by_cases hn : n.val = 0
    · rw [if_pos hn, if_neg (by omega)]
      have hrows : s.draw x y 0 = s.draw x y n.val := by rw [hn]
      rw [hrows]
      rfl
    · have hpos : 1 ≤ n.val := by omega
      simp only [hn, hpos, if_false, true_and]
      split_ifs <;> rfl
  | skp x =>
    refine (withKey_skipIf_eq x s id).trans ?_
    simp only [outcome, raises]
    split_ifs <;> rfl
  | sknp x =>
    refine (withKey_skipIf_eq x s not).trans ?_
    simp only [outcome, raises]
    split_ifs <;> rfl
  | ldKey x => exact execLdKey_eq x s
  | seImm x kk | sneImm x kk | seReg x y | sneReg x y => exact congrArg Host.Outcome.next (State.skipIf_eq s _)
  | cls | jp _ | ldImm _ _ | addImm _ _ | ldReg _ _ | orReg _ _ | andReg _ _ | xorReg _ _ | addReg _ _ | subReg _ _
  | shr _ _ | subn _ _ | shl _ _ | ldI _ | jpV0 _ | rnd _ _ | ldFromDt _ | ldDt _ | ldSt _ | addI _ | ldFont _ => rfl

/-- What an instruction answered is its outcome: a raise by its table row, or its completion. -/
theorem exec_next {i : Instr} {s t : State} (h : exec i s = .next t) :
    (∃ kind info, raises s i = some (kind, info) ∧ t = s.raise kind info) ∨ (raises s i = none ∧ t = completed i s) := by
  rw [exec_eq] at h
  cases h
  cases hr : raises s i with
  | some r => exact .inl ⟨r.1, r.2, rfl, outcome_of_raises hr⟩
  | none => exact .inr ⟨rfl, outcome_of_not_raises hr⟩

theorem exec_of_raises {i : Instr} {s : State} {kind : Fault} {info : Nat} (h : raises s i = some (kind, info)) :
    exec i s = .next (s.raise kind info) := by
  rw [exec_eq, outcome_of_raises h]

theorem exec_of_not_raises {i : Instr} {s : State} (h : raises s i = none) : exec i s = .next (completed i s) := by
  rw [exec_eq, outcome_of_not_raises h]

/-! ### What the effect of an instruction leaves alone (spec/10_state.md R20, R26) -/

@[simp] theorem completed_pc (i : Instr) (s : State) : (completed i s).pc = pcAfter s i := rfl

@[simp] theorem completed_tone (i : Instr) (s : State) : (completed i s).tone = s.tone := by cases i <;> rfl

@[simp] theorem completed_keys (i : Instr) (s : State) : (completed i s).keys = s.keys := by cases i <;> rfl

@[simp] theorem completed_fault (i : Instr) (s : State) : (completed i s).fault = s.fault := by cases i <;> rfl

theorem completed_mem {i : Instr} (s : State) (hbcd : ∀ x, i ≠ .ldBcd x) (hstore : ∀ x, i ≠ .storeRegs x) :
    (completed i s).mem = s.mem := by
  cases i with
  | ldBcd x => exact absurd rfl (hbcd x)
  | storeRegs x => exact absurd rfl (hstore x)
  | _ => rfl

theorem completed_i {i : Instr} (s : State) (hld : ∀ w, i ≠ .ldI w) (hadd : ∀ x, i ≠ .addI x)
    (hfont : ∀ x, i ≠ .ldFont x) : (completed i s).i = s.i := by
  cases i with
  | ldI w => exact absurd rfl (hld w)
  | addI x => exact absurd rfl (hadd x)
  | ldFont x => exact absurd rfl (hfont x)
  | _ => rfl

theorem completed_slot {i : Instr} (s : State) (hcall : ∀ w, i ≠ .call w) (k : BitVec 4) :
    (completed i s).slot k = s.slot k := by
  cases i with
  | call w => exact absurd rfl (hcall w)
  | _ => rfl

theorem completed_sp {i : Instr} (s : State) (hcall : ∀ w, i ≠ .call w) (hret : i ≠ .ret) :
    (completed i s).sp = s.sp := by
  cases i with
  | call w => exact absurd rfl (hcall w)
  | ret => exact absurd rfl hret
  | _ => rfl

theorem completed_dt {i : Instr} (s : State) (hld : ∀ x, i ≠ .ldDt x) : (completed i s).dt = s.dt := by
  cases i with
  | ldDt x => exact absurd rfl (hld x)
  | _ => rfl

theorem completed_st {i : Instr} (s : State) (hld : ∀ x, i ≠ .ldSt x) : (completed i s).st = s.st := by
  cases i with
  | ldSt x => exact absurd rfl (hld x)
  | _ => rfl

/-- CLS and DRW request a redraw; every other instruction leaves the flag. -/
theorem completed_redraw_iff (i : Instr) (s : State) :
    (completed i s).redraw = true ↔ s.redraw = true ∨ i = .cls ∨ ∃ x y n, i = .drw x y n := by
  cases i with
  | cls => exact iff_of_true rfl (.inr (.inl rfl))
  | drw x y n => exact iff_of_true rfl (.inr (.inr ⟨x, y, n, rfl⟩))
  | _ => exact ⟨.inl, fun h => h.elim id (by simp)⟩

theorem completed_redraw {i : Instr} (s : State) (hcls : i ≠ .cls) (hdrw : ∀ x y n, i ≠ .drw x y n) :
    (completed i s).redraw = s.redraw := by
  rw [Bool.eq_iff_iff, completed_redraw_iff]
  exact ⟨fun h => h.elim id fun h => (h.elim (absurd · hcls) fun ⟨x, y, n, e⟩ => absurd e (hdrw x y n)), .inl⟩

/-- A register outside the write rows of the register table keeps its value. -/
theorem completed_reg {i : Instr} (s : State) {r : Reg} (h : mayWriteReg i r = false) :
    (completed i s).reg r = s.reg r := by
  cases i with
  | ldImm x _ | addImm x _ | ldReg x _ | orReg x _ | andReg x _ | xorReg x _ | rnd x _ | ldFromDt x | ldKey x =>
    have hx : r ≠ x := by simpa [mayWriteReg] using h
    exact (State.reg_setReg s x _ r).trans (if_neg hx)
  | addReg x _ | subReg x _ | shr x _ | subn x _ | shl x _ =>
    obtain ⟨hx, hvf⟩ : r ≠ x ∧ r ≠ Reg.vf := by simpa [mayWriteReg] using h
    exact (State.reg_setFlagged s x _ _ r).trans ((if_neg hx).trans (if_neg hvf))
  | drw x y n =>
    have hvf : r ≠ Reg.vf := by simpa [mayWriteReg] using h
    exact (State.reg_setReg _ Reg.vf _ r).trans (if_neg hvf)
  | loadRegs x =>
    have hx : ¬ r ≤ x := by simpa [mayWriteReg] using h
    exact (State.get_regsLoaded s x r).trans (if_neg hx)
  | _ => rfl

/-! ### The step, by the latch and by what it fetches (spec/40_cycle.md R120) -/

/-- The flags of the last step do not bear on what raises, nor on where PC goes. -/
@[simp] theorem raises_clearFlags (s : State) (i : Instr) : raises s.clearFlags i = raises s i := by cases i <;> rfl

@[simp] theorem pcAfter_clearFlags (s : State) (i : Instr) : pcAfter s.clearFlags i = pcAfter s i := by cases i <;> rfl

/-- A latched machine reports the latch again and does nothing else (spec/40_cycle.md R121). -/
theorem step_of_latched {s : State} {k : Fault} (hs : s.fault = some k) : step s = .next (s.report (.fatal k none)) := by
  simp only [step, cycle, hs]

theorem step_of_fetch_none {s : State} (hs : s.fault = none) (hf : s.fetch = none) :
    step s = .next (s.clearFlags.raise .addressOutOfRange s.pc.toNat) := by
  have hf' : s.clearFlags.fetch = none := hf
  simp only [step, cycle, hs, runFetched, hf', State.clearFlags_pc]

theorem step_of_unknown {s : State} {op : Word} {e : Reject} (hs : s.fault = none) (hf : s.fetch = some op)
    (hd : decodeOp op = .error e) : step s = .next (s.clearFlags.decay.report (.unknownOpcode op s.pc)) := by
  have hf' : s.clearFlags.fetch = some op := hf
  simp only [step, cycle, hs, runFetched, hf', runOpcode, hd, unknownStep, State.clearFlags_pc]

theorem step_of_raises {s : State} {i : Instr} {kind : Fault} {info : Nat} (hs : s.fault = none)
    (hi : s.nextInstr = some i) (hr : raises s i = some (kind, info)) :
    step s = .next (s.clearFlags.raise kind info) := by
  rw [step_of_nextInstr hs hi, exec_of_raises ((raises_clearFlags s i).trans hr)]
  rfl

theorem step_of_not_raises {s : State} {i : Instr} (hs : s.fault = none) (hi : s.nextInstr = some i)
    (hr : raises s i = none) : step s = .next ((completed i s.clearFlags).decay.report .ok) := by
  rw [step_of_nextInstr hs hi, exec_of_not_raises ((raises_clearFlags s i).trans hr)]
  simp [finishStep, hs]

/-- Everything the step of an unlatched machine can do. -/
theorem step_unlatched {s t : State} (hs : s.fault = none) (h : step s = .next t) :
    (s.fetch = none ∧ t = s.clearFlags.raise .addressOutOfRange s.pc.toNat) ∨
      (∃ op e, s.fetch = some op ∧ decodeOp op = .error e ∧ t = s.clearFlags.decay.report (.unknownOpcode op s.pc)) ∨
      (∃ i kind info, s.nextInstr = some i ∧ raises s i = some (kind, info) ∧ t = s.clearFlags.raise kind info) ∨
      (∃ i, s.nextInstr = some i ∧ raises s i = none ∧ t = (completed i s.clearFlags).decay.report .ok) := by
  rcases step_cases h with ⟨k, hk, -⟩ | ⟨-, hf, ht⟩ | ⟨op, e, -, hf, hd, ht⟩ | ⟨op, i, -, hf, hd, -⟩
  · rw [hs] at hk
    cases hk
  · exact .inl ⟨hf, ht⟩
  · exact .inr (.inl ⟨op, e, hf, hd, ht⟩)
  · have hi := State.nextInstr_of_decode hf hd
    cases hr : raises s i with
    | some r =>
      rw [step_of_raises hs hi hr] at h
      cases h
      exact .inr (.inr (.inl ⟨i, r.1, r.2, hi, hr, rfl⟩))
    | none =>
      rw [step_of_not_raises hs hi hr] at h
      cases h
      exact .inr (.inr (.inr ⟨i, hi, hr, rfl⟩))

end Sys2Proof.Machine

namespace Sys2Proof.Machine

/-! ### The invariant (spec/10_state.md R30, R31, R40) -/

/-- A fetch that reads an opcode starts at 4094 at most. -/
theorem State.pc_le_of_fetch {s : State} {op : Word} (h : s.fetch = some op) : s.pc.toNat ≤ 4094 := by
  unfold State.fetch at h
  split_ifs at h with hpc
  exact Nat.le_of_lt_succ (Nat.lt_of_succ_lt_succ hpc)

/-- The instruction a step runs was fetched from 4094 at most, and is well-formed. -/
theorem State.of_nextInstr {s : State} {i : Instr} (h : s.nextInstr = some i) :
    s.pc.toNat ≤ 4094 ∧ i.wellFormed = true := by
  obtain ⟨op, hf, hd⟩ := State.nextInstr_eq_some.1 h
  exact ⟨State.pc_le_of_fetch hf, (encode_of_decodeOp hd).2⟩

theorem pcSkip_toNat_le {s : State} (c : Bool) (hpc : s.pc.toNat ≤ 4094) : (pcSkip s c).toNat ≤ 0x10FE := by
  unfold pcSkip
  split_ifs <;> bv_omega

/-- A transfer reaches 0xFFF + 0xFF at most, by JP V0; a skip at the end of memory reaches 4098 (spec/10_state.md R30). -/
theorem pcAfter_toNat_le {s : State} {i : Instr} (hpc : s.pc.toNat ≤ 4094) (hslots : ∀ k, (s.slot k).toNat ≤ 4094)
    (hwf : i.wellFormed = true) : (pcAfter s i).toNat ≤ 0x10FE := by
  cases i with
  | jp nnn | call nnn =>
    have hnnn : nnn.toNat < 4096 := of_decide_eq_true hwf
    exact le_trans hnnn.le (by decide)
  | jpV0 nnn =>
    have hnnn : nnn.toNat < 4096 := of_decide_eq_true hwf
    have hv := (s.reg 0).isLt
    simp only [pcAfter, BitVec.toNat_add, BitVec.toNat_setWidth]
    omega
  | ret =>
    have hslot := hslots s.sp
    simp only [pcAfter]
    bv_omega
  | seImm x kk | sneImm x kk | seReg x y | sneReg x y | skp x | sknp x => exact pcSkip_toNat_le _ hpc
  | ldKey x =>
    simp only [pcAfter]
    split_ifs <;> bv_omega
  | _ =>
    simp only [pcAfter]
    bv_omega

/-- The stores of an instruction that does not raise end within memory, so they keep it canonical. -/
theorem completed_mem_wf {s : State} {i : Instr} (hr : raises s i = none) (hm : s.mem.wf = true) :
    (completed i s).mem.wf = true := by
  cases i with
  | ldBcd x =>
    have hlast : ¬ s.i.toNat + 2 > 4095 := by simpa [raises] using hr
    exact Memory.wf_writeBytes hm _ (by simp [bcdDigits]; omega)
  | storeRegs x =>
    have hlast : ¬ s.i.toNat + x.val > 4095 := by simpa [raises] using hr
    exact Memory.wf_writeBytes hm _ (by rw [State.length_regsUpTo]; omega)
  | _ => exact hm

/-- The one slot an instruction that does not raise can write is not slot 0, and takes the address of the instruction. -/
theorem completed_slot_cases {s : State} {i : Instr} (hr : raises s i = none) (k : BitVec 4) :
    (completed i s).slot k = s.slot k ∨ (k ≠ 0 ∧ (completed i s).slot k = s.pc) := by
  by_cases hcall : ∃ nnn, i = .call nnn
  · obtain ⟨nnn, rfl⟩ := hcall
    have hsp : s.sp ≠ 15 := fun e => by simp [raises, e] at hr
    have hslot : (completed (.call nnn) s).slot k = if k = s.sp + 1 then s.pc else s.slot k :=
      State.slot_pushCall s nnn k
    by_cases hk : k = s.sp + 1
    · exact .inr ⟨by bv_omega, hslot.trans (if_pos hk)⟩
    · exact .inl (hslot.trans (if_neg hk))
  · push Not at hcall
    exact .inl (completed_slot s hcall k)

/-- A state with the memory, the stack and the PC of one that meets the invariant, its latch and its result agreeing. -/
theorem State.Inv.of_same {s t : State} (h : s.Inv) (hmem : t.mem = s.mem) (hstack : t.stack = s.stack) (hpc : t.pc = s.pc)
    (hreported : ∀ k, t.fault = some k → ∃ info, t.result = .fatal k info) : t.Inv where
  mem_wf := hmem ▸ h.mem_wf
  slots_fetchable k := by
    rw [State.slot, hstack]
    exact h.slots_fetchable k
  slot_zero := by
    rw [State.slot, hstack]
    exact h.slot_zero
  pc_bound := hpc ▸ h.pc_bound
  fault_reported := hreported

theorem State.Inv.raise {s : State} (h : s.Inv) (kind : Fault) (info : Nat) : (s.clearFlags.raise kind info).Inv := by
  refine h.of_same rfl rfl rfl fun k hk => ?_
  cases hk
  exact ⟨_, rfl⟩

/-- An instruction fetched by an unlatched machine keeps the invariant. -/
theorem State.Inv.completed {s : State} {i : Instr} (h : s.Inv) (hs : s.fault = none) (hi : s.nextInstr = some i)
    (hr : raises s i = none) : (completed i s.clearFlags).Inv := by
  obtain ⟨hpc, hwf⟩ := State.of_nextInstr hi
  have hr' : raises s.clearFlags i = none := (raises_clearFlags s i).trans hr
  refine ⟨completed_mem_wf hr' h.mem_wf, fun k => ?_, ?_, pcAfter_toNat_le hpc h.slots_fetchable hwf, fun k hk => ?_⟩
  · rcases completed_slot_cases hr' k with hk | ⟨-, hk⟩ <;> rw [hk]
    · exact h.slots_fetchable k
    · exact hpc
  · rcases completed_slot_cases hr' 0 with hk | ⟨hk, -⟩
    · exact hk.trans h.slot_zero
    · exact absurd rfl hk
  · rw [completed_fault, State.clearFlags_fault, hs] at hk
    cases hk

/-- Settles O56: the latch, a raise and an unknown opcode leave memory, stack and PC; for an instruction that completes,
`State.Inv.completed`. -/
theorem stepKeepsInvariant : Obligations.StepKeepsInvariant := by
  intro s t h hstep
  cases hs : s.fault with
  | some k =>
    rw [step_of_latched hs] at hstep
    cases hstep
    refine h.of_same rfl rfl rfl fun j hj => ?_
    cases hs.symm.trans hj
    exact ⟨none, rfl⟩
  | none =>
    rcases step_unlatched hs hstep with ⟨-, rfl⟩ | ⟨_, _, -, -, rfl⟩ | ⟨_, kind, info, -, -, rfl⟩ | ⟨i, hi, hr, rfl⟩
    · exact h.raise _ _
    · exact h.of_same rfl rfl rfl fun k hk => by simp [hs] at hk
    · exact h.raise _ _
    · exact (h.completed hs hi hr).of_same rfl rfl rfl fun k hk => by simp [hs] at hk

/-- Settles O57: nothing is written yet. -/
theorem invariantAtReset : Obligations.InvariantAtReset where
  mem_wf := Memory.wf_reset
  slots_fetchable := by decide
  slot_zero := rfl
  pc_bound := by decide
  fault_reported k hk := by cases hk

/-- An image that fits is written at 0x200 upward. -/
theorem loadProgram_of_le {bytes : List Byte} (s : State) (h : bytes.length ≤ 3584) :
    loadProgram bytes s = (.ok, s.setMem (s.mem.writeBytes 0x200 bytes)) := if_neg (Nat.not_lt.2 h)

/-- A longer one is refused. -/
theorem loadProgram_of_gt {bytes : List Byte} (s : State) (h : 3584 < bytes.length) :
    loadProgram bytes s = (.romTooLarge bytes.length, s) := if_pos h

/-- A load writes memory alone, within MEM, so that it stays canonical; or it writes nothing. -/
theorem loadProgram_eq_setMem (bytes : List Byte) (s : State) :
    ∃ m, (loadProgram bytes s).2 = s.setMem m ∧ (s.mem.wf = true → m.wf = true) := by
  by_cases hlen : bytes.length ≤ 3584
  · rw [loadProgram_of_le s hlen]
    exact ⟨_, rfl, fun hm => Memory.wf_writeBytes hm bytes (by omega)⟩
  · rw [loadProgram_of_gt s (Nat.lt_of_not_le hlen)]
    exact ⟨s.mem, rfl, id⟩

/-- Settles O58, by the request: reset is O57, a step O56, a load writes memory alone and canonically, and a key update
writes no place the invariant speaks of. -/
theorem hostKeepsInvariant : Obligations.HostKeepsInvariant := by
  intro a s t h ha
  cases a with
  | reset =>
    cases ha
    exact State.Inv.of_same invariantAtReset rfl rfl rfl fun k hk => by cases hk
  | load bytes =>
    cases ha
    obtain ⟨m, hload, hwf⟩ := loadProgram_eq_setMem bytes s
    rw [hload]
    exact ⟨hwf h.mem_wf, h.slots_fetchable, h.slot_zero, h.pc_bound, h.fault_reported⟩
  | keys k =>
    cases ha
    exact h.of_same rfl rfl rfl h.fault_reported
  | step => exact stepKeepsInvariant s t h ha

end Sys2Proof.Machine

namespace Sys2Proof.Machine

/-! ### Runs (spec/40_cycle.md R121, R131) -/

/-- A latched machine that reports its kind alone is at rest. -/
theorem run_of_latched {s : State} {k : Fault} (hs : s.fault = some k) (hr : s.result = .fatal k none) (n : Nat) :
    Host.Core.run Sys2Proof.core n s = .next s := by
  induction n with
  | zero => exact run_zero s
  | succ n ih =>
    have hrest : s.report (.fatal k none) = s := by rw [← hr]; rfl
    rw [run_succ ((step_of_latched hs).trans (congrArg _ hrest)), ih]

/-- Settles O9: the first step reports the latch, and the machine then is at rest. -/
theorem latchedMachineDoesNothing : Obligations.LatchedMachineDoesNothing := by
  intro s k n hs
  rw [run_succ (step_of_latched hs)]
  exact run_of_latched (s := s.report (.fatal k none)) hs rfl n

/-- Settles O10: the step is the flag reset, the decay and the warning. -/
theorem unknownOpcodeStep : Obligations.UnknownOpcodeStep := by
  intro s op e hs hf hd
  refine ⟨_, step_of_unknown hs hf hd, ?_, ?_, rfl, ?_, rfl, fun p hp => ?_⟩
  · exact tick_toNat s.dt
  · exact tick_toNat s.st
  · exact bne_zero_iff_toNat_pos s.st
  · cases p with
    | dt | st | redraw | tone | result => simp at hp
    | _ => rfl

/-- Settles O11, by induction on the number of steps: a step on an unknown opcode leaves the machine where it fetches that
opcode again. -/
theorem unknownOpcodeRepeatsForever : Obligations.UnknownOpcodeRepeatsForever := by
  intro s op e n hs hf hd
  induction n generalizing s with
  | zero =>
    rw [run_succ (step_of_unknown hs hf hd)]
    exact ⟨_, rfl, rfl, hs, rfl, tick_toNat s.dt, tick_toNat s.st⟩
  | succ n ih =>
    rw [run_succ (step_of_unknown hs hf hd)]
    obtain ⟨t, ht, hpc, hfault, hres, hdt, hst⟩ := ih (s.clearFlags.decay.report (.unknownOpcode op s.pc)) hs hf
    refine ⟨t, ht, hpc, hfault, hres, ?_, ?_⟩
    · rw [hdt, State.report_dt, State.decay_dt, tick_toNat, State.clearFlags_dt]
      omega
    · rw [hst, State.report_st, State.decay_st, tick_toNat, State.clearFlags_st]
      omega

/-! ### One step -/

theorem step_total (s : State) : ∃ t, step s = .next t := by
  cases hs : s.fault with
  | some k => exact ⟨_, step_of_latched hs⟩
  | none =>
    cases hf : s.fetch with
    | none => exact ⟨_, step_of_fetch_none hs hf⟩
    | some op =>
      cases hd : decodeOp op with
      | error e => exact ⟨_, step_of_unknown hs hf hd⟩
      | ok i =>
        rw [step_of_nextInstr hs (State.nextInstr_of_decode hf hd), exec_eq, finishStep]
        split_ifs <;> exact ⟨_, rfl⟩

/-- Settles O12: `exec_eq` for the instructions; of the host's requests only the step is not an answer by definition. -/
theorem everyRequestAnswersNext : Obligations.EveryRequestAnswersNext := by
  refine ⟨fun i s => ⟨_, exec_eq i s⟩, fun a s => ?_⟩
  cases a with
  | reset | load _ | keys _ => exact ⟨_, rfl⟩
  | step => exact step_total s

/-- A fetch at 4094 at most reads the two bytes at PC, the first the high one. -/
theorem State.fetch_of_le {s : State} (h : s.pc.toNat + 1 < 4096) :
    s.fetch = some (opcodeOf (s.byteAt s.pc.toNat) (s.byteAt (s.pc.toNat + 1))) := if_pos h

theorem State.fetch_eq_none {s : State} (h : 4096 ≤ s.pc.toNat + 1) : s.fetch = none := if_neg (Nat.not_lt.2 h)

/-- Two bytes that decode are an opcode that decodes. -/
theorem decodeOp_of_decode {hi lo : Byte} {i : Instr} (h : decode [hi, lo] = .ok (i, [])) :
    decodeOp (opcodeOf hi lo) = .ok i := by
  cases hd : decodeOp (opcodeOf hi lo) with
  | error e => simp [decode, hd, Except.map] at h
  | ok j =>
    simp only [decode, hd, Except.map] at h
    cases h
    rfl

/-- Settles O6: the fetched bytes decode to the next instruction, and the end of a step depends on the latch alone. -/
theorem stepRunsDecodedInstruction : Obligations.StepRunsDecodedInstruction := by
  intro s i hs hpc _ hd
  have hi : s.nextInstr = some i :=
    State.nextInstr_of_decode (State.fetch_of_le (by omega)) (decodeOp_of_decode hd)
  have hstep : step s = finishStep (exec i s.clearFlags) := step_of_nextInstr hs hi
  refine ⟨hstep, fun u hu => ⟨fun hfault => ?_, fun hfault => ?_⟩⟩
  · rw [hstep, hu, finishStep, hfault]
    rfl
  · rw [hstep, hu, finishStep, if_pos (Option.isSome_iff_ne_none.2 hfault)]

/-- Settles O7: `opcodeOf_toNat` on the two bytes; past the end the step is the raise. -/
theorem fetchIsBigEndian : Obligations.FetchIsBigEndian := by
  intro s
  refine ⟨fun h => ⟨_, State.fetch_of_le h, opcodeOf_toNat _ _⟩, fun h => ⟨State.fetch_eq_none h, fun hs => ?_⟩⟩
  exact ⟨_, step_of_fetch_none hs (State.fetch_eq_none h), rfl, rfl⟩

/-- A raise by the step leaves every place but the two flags, the latch and the result. -/
theorem changesOnly_raise (s : State) (kind : Fault) (info : Nat) :
    ChangesOnly (fun p => p = .fault ∨ p = .result ∨ p = .redraw ∨ p = .tone) s (s.clearFlags.raise kind info) := by
  intro p hp
  cases p with
  | fault | result | redraw | tone => simp at hp
  | _ => rfl

/-- Settles O8: the step is the flag reset and the raise. -/
theorem fetchPastEndIsFatal : Obligations.FetchPastEndIsFatal := by
  intro s hs hpc
  exact ⟨_, step_of_fetch_none hs (State.fetch_eq_none (by omega)), rfl, rfl, rfl, rfl, changesOnly_raise s _ _⟩

/-- Settles O13: of what a step can do only a raise, by the fetch or by the instruction, sets the latch. -/
theorem fatalStepIsPrecise : Obligations.FatalStepIsPrecise := by
  intro s t k hs hstep hk
  rcases step_unlatched hs hstep with ⟨-, rfl⟩ | ⟨_, _, -, -, rfl⟩ | ⟨_, kind, info, -, -, rfl⟩ | ⟨i, -, -, rfl⟩
  · cases hk
    exact ⟨rfl, rfl, ⟨_, rfl⟩, changesOnly_raise s _ _⟩
  · simp [hs] at hk
  · cases hk
    exact ⟨rfl, rfl, ⟨_, rfl⟩, changesOnly_raise s _ _⟩
  · simp [hs] at hk

theorem State.expectedResult_of_fetch_none {s : State} (hf : s.fetch = none) :
    s.expectedResult = .fatal .addressOutOfRange (some s.pc.toNat) := by
  simp only [State.expectedResult, hf]

theorem State.expectedResult_of_unknown {s : State} {op : Word} {e : Reject} (hf : s.fetch = some op)
    (hd : decodeOp op = .error e) : s.expectedResult = .unknownOpcode op s.pc := by
  simp only [State.expectedResult, hf, hd]

theorem State.expectedResult_of_raises {s : State} {i : Instr} {kind : Fault} {info : Nat} (hi : s.nextInstr = some i)
    (hr : raises s i = some (kind, info)) : s.expectedResult = .fatal kind (some info) := by
  obtain ⟨op, hf, hd⟩ := State.nextInstr_eq_some.1 hi
  simp only [State.expectedResult, hf, hd, hr]

theorem State.expectedResult_of_not_raises {s : State} {i : Instr} (hi : s.nextInstr = some i)
    (hr : raises s i = none) : s.expectedResult = .ok := by
  obtain ⟨op, hf, hd⟩ := State.nextInstr_eq_some.1 hi
  simp only [State.expectedResult, hf, hd, hr]

/-- Settles O14, by what the step did: the tables name the same case. -/
theorem stepResultFollowsTable : Obligations.StepResultFollowsTable := by
  intro s t hs hstep
  rcases step_unlatched hs hstep with ⟨hf, rfl⟩ | ⟨_, _, hf, hd, rfl⟩ | ⟨_, _, _, hi, hr, rfl⟩ | ⟨_, hi, hr, rfl⟩
  · simp [State.expectedResult_of_fetch_none hf]
  · simp [State.expectedResult_of_unknown hf hd, hs]
  · simp [State.expectedResult_of_raises hi hr]
  · simp [State.expectedResult_of_not_raises hi hr, hs]

/-- With no opcode fetched there is no next instruction. -/
theorem State.nextInstr_of_fetch_none {s : State} (hf : s.fetch = none) : s.nextInstr = none := by
  simp only [State.nextInstr, hf]

/-- With an unknown opcode fetched there is no next instruction. -/
theorem State.nextInstr_of_unknown {s : State} {op : Word} {e : Reject} (hf : s.fetch = some op)
    (hd : decodeOp op = .error e) : s.nextInstr = none := by
  simp only [State.nextInstr, hf, hd, Except.toOption]

/-- Settles O16: a step that does not end fatal holds PC at an unknown opcode or completes an instruction. -/
theorem pcFollowsClassTable : Obligations.PcFollowsClassTable := by
  intro s t hs hstep hk
  rcases step_unlatched hs hstep with ⟨-, rfl⟩ | ⟨_, _, hf, hd, rfl⟩ | ⟨_, _, _, -, -, rfl⟩ | ⟨i, hi, -, rfl⟩
  · cases hk
  · rw [State.nextInstr_of_unknown hf hd]
    rfl
  · cases hk
  · rw [hi]
    exact pcAfter_clearFlags s i

/-- Settles O17: the flag reset leaves REDRAW false, a raise ends with the latch set, and of the instructions that complete
only CLS and DRW request a redraw. -/
theorem redrawExactlyAfterClsAndDrw : Obligations.RedrawExactlyAfterClsAndDrw := by
  intro s t hs hstep
  rcases step_unlatched hs hstep with ⟨-, rfl⟩ | ⟨_, _, hf, hd, rfl⟩ | ⟨_, _, _, -, -, rfl⟩ | ⟨i, hi, -, rfl⟩
  · simp
  · simp [State.nextInstr_of_unknown hf hd]
  · simp
  · rw [State.report_redraw, State.decay_redraw, completed_redraw_iff]
    simp [hi, hs]

/-- Settles O59: a JP to its own address completes with memory, PC and latch as they were, so the next step fetches it
again. -/
theorem selfJumpStays : Obligations.SelfJumpStays := by
  rintro s ⟨hs, op, hf, hd⟩
  refine ⟨_, step_of_not_raises hs (State.nextInstr_of_decode hf hd) rfl, rfl, rfl, ⟨hs, op, hf, hd⟩, fun p hp => ?_⟩
  cases p with
  | dt | st | tone | redraw | result => simp at hp
  | _ => rfl

/-! ### The host's requests, and who writes what -/

/-- A step never writes KEYS. -/
theorem step_keys {s t : State} (h : step s = .next t) : t.keys = s.keys := by
  cases hs : s.fault with
  | some k =>
    rw [step_of_latched hs] at h
    cases h
    rfl
  | none =>
    rcases step_unlatched hs h with ⟨-, rfl⟩ | ⟨_, _, -, -, rfl⟩ | ⟨_, _, _, -, -, rfl⟩ | ⟨i, -, -, rfl⟩
    · rfl
    · rfl
    · rfl
    · exact completed_keys i s.clearFlags

/-- Settles O18, by the request. -/
theorem keysAndLatchAcrossRequests : Obligations.KeysAndLatchAcrossRequests := by
  refine ⟨fun k s => ⟨_, rfl, rfl, fun p hp => ?_⟩, fun a s t h hreset => ?_⟩
  · cases p with
    | key j => exact absurd ⟨j, rfl⟩ hp
    | _ => rfl
  · cases a with
    | reset => exact absurd rfl hreset
    | load bytes =>
      cases h
      obtain ⟨m, hload, -⟩ := loadProgram_eq_setMem bytes s
      rw [hload]
      exact ⟨fun _ => rfl, fun _ hs => hs⟩
    | keys k =>
      cases h
      exact ⟨fun hk => absurd rfl (hk k), fun _ hs => hs⟩
    | step =>
      refine ⟨fun _ => step_keys h, fun k hs => ?_⟩
      cases (step_of_latched hs).symm.trans h
      exact hs

/-- Settles O20: a raise writes no register, a completion those of the write rows. -/
theorem registersWrittenOnlyPerTable : Obligations.RegistersWrittenOnlyPerTable := by
  intro i s t r h hr
  rcases exec_next h with ⟨_, _, -, rfl⟩ | ⟨-, rfl⟩
  · rfl
  · exact completed_reg s hr

/-- Settles O19: a raise writes the latch and the result alone; for a completion, each place by its own lemma. -/
theorem stateWrittenOnlyByItsWriters : Obligations.StateWrittenOnlyByItsWriters := by
  intro i s t h
  have hreg : ∀ r, mayWriteReg i r = false → t.reg r = s.reg r := fun r => registersWrittenOnlyPerTable i s t r h
  have hfb : i ≠ .cls → (∀ x y n, i ≠ .drw x y n) → t.fb = s.fb := exec_keeps_fb h
  rcases exec_next h with ⟨kind, info, hr, rfl⟩ | ⟨hr, rfl⟩
  · simp [hr]
  · exact ⟨fun hbcd hstore a => congrArg (·.read a) (completed_mem s hbcd hstore), completed_i s, completed_slot s,
      completed_sp s, completed_dt s, completed_st s,
      fun hcls hdrw => ⟨completed_redraw s hcls hdrw, fun row col => congrArg (·.pixel row col) (hfb hcls hdrw)⟩,
      completed_tone i s, completed_keys i s, hreg, fun hne => absurd hr hne, fun _ => completed_fault i s⟩

end Sys2Proof.Machine

namespace Sys2Proof.Machine

/-! ### Control transfer (spec/41_control_flow.md) -/

/-- Settles O21: row 2 of the opcode table, and an instruction that only writes PC. -/
theorem jumpSetsPc : Obligations.JumpSetsPc := ⟨decodesTo_rowInstr 2, fun _ _ => movesPc_of_exec rfl⟩

/-- Settles O22: twelve bits and eight bits add up within sixteen. -/
theorem jumpV0AddsUnmasked : Obligations.JumpV0AddsUnmasked := by
  intro nnn s hnnn
  refine ⟨_, movesPc_of_exec rfl, ?_⟩
  have hv := (s.reg 0).isLt
  rw [BitVec.toNat_add, BitVec.toNat_setWidth]
  omega

theorem exec_call_of_lt {s : State} (h : s.sp.toNat < 15) (nnn : Word) : exec (.call nnn) s = .next (s.pushCall nnn) :=
  if_neg fun e => by simp [e] at h

theorem exec_ret_of_pos {s : State} (h : 0 < s.sp.toNat) : exec .ret s = .next s.popCall :=
  if_neg fun e => by simp [e] at h

/-- Settles O23: below the last slot the call is pushed, at the last slot it raises. -/
theorem callSavesItsOwnAddress : Obligations.CallSavesItsOwnAddress := by
  intro nnn s
  refine ⟨fun h => ⟨_, exec_call_of_lt h nnn, ?_, ?_, rfl, fun p hp => ?_⟩, fun h => ?_⟩
  · rw [State.pushCall_sp]
    bv_omega
  · rw [State.pushCall_sp, State.slot_pushCall, if_pos rfl]
  · cases p with
    | slot k => exact (State.slot_pushCall s nnn k).trans (if_neg fun e => hp (.inr (.inl (congrArg _ e))))
    | sp | pc => simp at hp
    | _ => rfl
  · exact raisesFatal_of_exec (if_pos (BitVec.eq_of_toNat_eq h))

/-- Settles O24: with a call outstanding the slot gives the address, with none the instruction raises. -/
theorem returnGoesPastTheCall : Obligations.ReturnGoesPastTheCall := by
  intro s
  refine ⟨fun h => ⟨_, exec_ret_of_pos h, rfl, ?_, fun p hp => ?_⟩, fun h => ?_⟩
  · rw [State.popCall_sp]
    bv_omega
  · cases p with
    | sp | pc => simp at hp
    | _ => rfl
  · exact raisesFatal_of_exec (if_pos (BitVec.eq_of_toNat_eq h))

/-- Settles O25: the RET reads the slot the CALL wrote. -/
theorem callThenReturnResumes : Obligations.CallThenReturnResumes := by
  intro nnn s u w hs hcall hsp hstack
  rw [exec_call_of_lt hs nnn] at hcall
  cases hcall
  have hsp' : w.sp = s.sp + 1 := hsp
  have hslot : w.slot w.sp = s.pc := by
    rw [hsp', State.slot, hstack]
    exact (State.slot_pushCall s nnn _).trans (if_pos rfl)
  refine ⟨_, exec_ret_of_pos (by rw [hsp']; bv_omega), ?_, ?_⟩
  · rw [State.popCall_pc, hslot]
  · rw [State.popCall_sp, hsp', BitVec.add_sub_cancel]

/-! ### Skips (spec/42_skips.md) -/

/-- An instruction that skips if `c`. -/
theorem movesPc_of_skipIf {i : Instr} {s : State} {c : Bool} (h : exec i s = .next (s.skipIf c)) :
    MovesPc i s (if c then s.pc + 4 else s.pc + 2) := movesPc_of_exec (h.trans (congrArg _ (State.skipIf_eq s c)))

/-- Settles O26: row 4, and a skip on equality. -/
theorem skipIfEqualImmediate : Obligations.SkipIfEqualImmediate := by
  refine ⟨decodesTo_rowInstr 4, fun x kk s => ?_⟩
  simpa using movesPc_of_skipIf (i := .seImm x kk) (s := s) rfl

/-- Settles O27: row 5, and a skip on inequality. -/
theorem skipIfNotEqualImmediate : Obligations.SkipIfNotEqualImmediate := by
  refine ⟨decodesTo_rowInstr 5, fun x kk s => ?_⟩
  simpa using movesPc_of_skipIf (i := .sneImm x kk) (s := s) rfl

/-- A low nibble that the mask 0x000F does not clear is not 0. -/
theorem fieldN_ne_zero {op : Word} (h : op &&& 0x000F ≠ 0) : fieldN op ≠ 0 := by
  intro hn
  refine h (BitVec.eq_of_toNat_eq ?_)
  have hlow : op.toNat % 16 = 0 := by rw [← fieldN_toNat, hn]; rfl
  rw [BitVec.toNat_and]
  exact (Nat.and_two_pow_sub_one_eq_mod op.toNat 4).trans hlow

/-- Settles O28: row 6, the strict low nibble of family 5, and a skip on equality. -/
theorem skipIfEqualRegisters : Obligations.SkipIfEqualRegisters := by
  refine ⟨decodesTo_rowInstr 6, fun op hfam hlow => ?_, fun x y s => ?_⟩
  · have hf : fieldFamily op = 0x5#4 := fieldFamily_of_and (m := 0xF000) rfl hfam
    simp only [decodeOp, hf]
    exact if_neg (fieldN_ne_zero hlow)
  · simpa using movesPc_of_skipIf (i := .seReg x y) (s := s) rfl

/-- Settles O29: row 18, the strict low nibble of family 9, and a skip on inequality. -/
theorem skipIfNotEqualRegisters : Obligations.SkipIfNotEqualRegisters := by
  refine ⟨decodesTo_rowInstr 18, fun op hfam hlow => ?_, fun x y s => ?_⟩
  · have hf : fieldFamily op = 0x9#4 := fieldFamily_of_and (m := 0xF000) rfl hfam
    simp only [decodeOp, hf]
    exact if_neg (fieldN_ne_zero hlow)
  · simpa using movesPc_of_skipIf (i := .sneReg x y) (s := s) rfl

/-! ### Register arithmetic (spec/43_alu.md) -/

theorem sum8_toNat (a b : Byte) : (sum8 a b).toNat = (a.toNat + b.toNat) % 256 := BitVec.toNat_ofNat ..

/-- The difference of bytes, 256 added if it is negative. -/
theorem diff8_toNat (a b : Byte) :
    (diff8 a b).toNat = if b.toNat ≤ a.toNat then a.toNat - b.toNat else a.toNat + 256 - b.toNat := by
  have ha := a.isLt
  have hb := b.isLt
  rw [diff8, BitVec.toNat_ofInt]
  split_ifs <;> omega

theorem shiftRight_toNat (a : Byte) : (shiftRight a).toNat = a.toNat / 2 := by
  rw [shiftRight, BitVec.toNat_ofNat]
  omega

theorem shiftLeft_toNat (a : Byte) : (shiftLeft a).toNat = 2 * a.toNat % 256 := BitVec.toNat_ofNat ..

theorem lowBit_eq (a : Byte) : lowBit a = decide (a.toNat % 2 = 1) := by
  rw [lowBit, ← BitVec.testBit_toNat, Nat.testBit_zero]

theorem highBit_eq (a : Byte) : highBit a = decide (128 ≤ a.toNat) := by
  have := a.isLt
  rw [highBit, ← BitVec.testBit_toNat, Nat.testBit_eq_decide_div_mod_eq]
  exact decide_eq_decide.2 (by omega)

/-- Settles O30: row 7, and one register written. -/
theorem loadImmediate : Obligations.LoadImmediate := ⟨decodesTo_rowInstr 7, fun _ _ _ => setsReg_of_exec rfl⟩

/-- Settles O31: one register written, with the sum. -/
theorem addImmediateWritesNoFlag : Obligations.AddImmediateWritesNoFlag :=
  fun _ _ _ => ⟨_, setsReg_of_exec rfl, sum8_toNat _ _⟩

/-- Settles O32: one register written, with the bits of the operation. -/
theorem copyAndLogic : Obligations.CopyAndLogic := fun _ _ _ =>
  ⟨setsReg_of_exec rfl, ⟨_, setsReg_of_exec rfl, fun _ _ => BitVec.getLsbD_or⟩,
    ⟨_, setsReg_of_exec rfl, fun _ _ => BitVec.getLsbD_and⟩, ⟨_, setsReg_of_exec rfl, fun _ _ => BitVec.getLsbD_xor⟩⟩

/-- Settles O33: the sum and its carry. -/
theorem addSetsCarry : Obligations.AddSetsCarry := fun _ _ _ => setsRegAndFlag_of_exec rfl (sum8_toNat _ _)

/-- Settles O34: the difference, the flag strict. -/
theorem subtractSetsStrictNoBorrow : Obligations.SubtractSetsStrictNoBorrow :=
  fun _ _ _ => setsRegAndFlag_of_exec rfl (diff8_toNat _ _)

/-- Settles O35: the difference with the operands exchanged. -/
theorem reverseSubtractSetsStrictNoBorrow : Obligations.ReverseSubtractSetsStrictNoBorrow :=
  fun _ _ _ => setsRegAndFlag_of_exec rfl (diff8_toNat _ _)

/-- Settles O36: half of Vx, and its bit 0. -/
theorem shiftRightInPlace : Obligations.ShiftRightInPlace := by
  intro x y s
  rw [← lowBit_eq]
  exact setsRegAndFlag_of_exec rfl (shiftRight_toNat _)

/-- Settles O37: twice Vx, and its bit 7. -/
theorem shiftLeftInPlace : Obligations.ShiftLeftInPlace := by
  intro x y s
  rw [← highBit_eq]
  exact setsRegAndFlag_of_exec rfl (shiftLeft_toNat _)

/-- Settles O38: the byte of this draw under the mask, and the count. -/
theorem randomUnderMask : Obligations.RandomUnderMask := by
  intro x kk s
  have hreg (r : Reg) : (rndWith s.rnd x kk s).reg r = if r = x then s.rnd &&& kk else s.reg r :=
    State.reg_setReg s x (s.rnd &&& kk) r
  refine ⟨rndWith s.rnd x kk s, rfl, fun k _ => ?_, rfl, rfl, fun p hp => ?_⟩
  · rw [hreg, if_pos rfl]
    exact BitVec.getLsbD_and
  · cases p with
    | reg r => exact (hreg r).trans (if_neg fun e => hp (.inl (congrArg _ e)))
    | rndDraws | pc => simp at hp
    | _ => rfl

/-! ### The address register (spec/44_index_memory.md) -/

/-- Settles O39: row 19, the low 12 bits as a number, and I written. -/
theorem setIndex : Obligations.SetIndex := by
  refine ⟨decodesTo_rowInstr 19, fun op => ?_, fun _ _ => setsI_of_exec rfl rfl⟩
  rw [fieldNnn, BitVec.toNat_setWidth, BitVec.extractLsb'_toNat, Nat.shiftRight_zero]
  omega

/-- Settles O40: I written with the sum at 16 bits. -/
theorem addToIndexWrapsAt16Bits : Obligations.AddToIndexWrapsAt16Bits :=
  fun _ _ => setsI_of_exec rfl (BitVec.toNat_ofNat ..)

/-- Five times a byte fits 16 bits. -/
theorem glyphAddress_toNat (b : Byte) : (glyphAddress b).toNat = b.toNat * 5 := by
  have := b.isLt
  rw [glyphAddress, BitVec.toNat_ofNat, Config.glyphBytes]
  omega

/-- Settles O41: `glyphAddress_toNat`. -/
theorem glyphAddressIsFiveTimes : Obligations.GlyphAddressIsFiveTimes :=
  fun _ _ => setsI_of_exec rfl (glyphAddress_toNat _)

/-! ### Keypad and timers (spec/46_keypad_timers.md) -/

/-- A key number names its key. -/
theorem State.keyDown_eq (s : State) (k : Fin 16) : s.keyDown k.val = s.keys.get k := by
  simp [State.keyDown, Vector.get]

/-- A skip on the complement of a condition. -/
theorem pcSkip_not (s : State) (c : Bool) : pcSkip s (!c) = if c then s.pc + 2 else s.pc + 4 := by
  cases c <;> rfl

/-- Settles O49: the key-number check, and a skip on the key or on its complement. -/
theorem skipOnKey : Obligations.SkipOnKey := by
  intro x s
  refine ⟨fun k hk => ?_, fun h =>
    ⟨raisesFatal_of_exec (exec_of_raises (if_pos h)), raisesFatal_of_exec (exec_of_raises (if_pos h))⟩⟩
  have hle : ¬ (s.reg x).toNat > 15 := by omega
  have hkey : s.keyDown (s.reg x).toNat = s.keys.get k := by rw [hk, State.keyDown_eq]
  have hskp : MovesPc (.skp x) s (pcSkip s (s.keyDown (s.reg x).toNat)) := movesPc_of_exec (exec_of_not_raises (if_neg hle))
  have hsknp : MovesPc (.sknp x) s (pcSkip s (!s.keyDown (s.reg x).toNat)) :=
    movesPc_of_exec (exec_of_not_raises (if_neg hle))
  rw [hkey] at hskp hsknp
  rw [pcSkip_not] at hsknp
  exact ⟨hskp, hsknp⟩

/-- Settles O50: row 25, and one register written. -/
theorem readDelayTimer : Obligations.ReadDelayTimer := ⟨decodesTo_rowInstr 25, fun _ _ => setsReg_of_exec rfl⟩

/-- With key `k` down and no lower one, the lowest key is `k`. -/
theorem State.lowestKey_eq_some {s : State} {k : Fin 16} (hk : s.keys.get k = true)
    (hlow : ∀ j : Fin 16, j < k → s.keys.get j = false) : s.lowestKey = some k.val := by
  rw [State.lowestKey, List.findIdx?_eq_some_iff_getElem]
  have hlen : s.keys.toList.length = 16 := Vector.length_toList
  refine ⟨by rw [hlen]; exact k.isLt, ?_, fun j hj => ?_⟩
  · simpa [Vector.get] using hk
  · have hfalse := hlow ⟨j, by omega⟩ hj
    simpa [Vector.get] using hfalse

/-- With no key down there is no lowest key. -/
theorem State.lowestKey_eq_none {s : State} (h : ∀ k : Fin 16, s.keys.get k = false) : s.lowestKey = none := by
  rw [State.lowestKey, List.findIdx?_eq_none_iff]
  intro b hb
  obtain ⟨j, hj, rfl⟩ := List.getElem_of_mem hb
  rw [Vector.length_toList] at hj
  simpa [Vector.get] using h ⟨j, hj⟩

/-- Settles O51: row 26, and the two outcomes of the search for a key. -/
theorem waitForLowestKey : Obligations.WaitForLowestKey := by
  refine ⟨decodesTo_rowInstr 26, fun x s => ⟨fun k hk hlow => setsReg_of_exec ?_, fun h => ?_⟩⟩
  · simp only [exec, execLdKey, State.lowestKey_eq_some hk hlow]
  · simp only [exec, execLdKey, State.lowestKey_eq_none h]

/-- Settles O52: rows 27 and 28, a timer written, and the decay of it. -/
theorem setTimers : Obligations.SetTimers := by
  refine ⟨decodesTo_rowInstr 27, decodesTo_rowInstr 28, fun x s => ⟨?_, ?_⟩⟩
  · refine ⟨(s.setDt (s.reg x)).advance, rfl, rfl, tick_toNat _, rfl, fun p hp => ?_⟩
    cases p with
    | dt | pc => simp at hp
    | _ => rfl
  · refine ⟨(s.setSt (s.reg x)).advance, rfl, rfl, tick_toNat _, ?_, rfl, fun p hp => ?_⟩
    · simp [← bne_zero_iff_toNat_pos]
    · cases p with
      | st | pc => simp at hp
      | _ => rfl

/-! ### Reset (spec/10_state.md R43) -/

/-- An unlisted address reads as the font, and as zero past it. -/
theorem Memory.unlisted_eq (a : Nat) : Memory.unlisted a = if h : a < font.length then font[a] else 0 := by
  unfold Memory.unlisted
  split_ifs with h
  · exact (List.getElem_eq_getD 0).symm
  · exact List.getD_eq_default _ _ (Nat.le_of_not_lt h)

/-- Settles O53: memory reads as unlisted, and every other place is a constant of the reset state. -/
theorem resetLeavesTheTable : Obligations.ResetLeavesTheTable := by
  refine ⟨fun s => ⟨_, rfl, fun p hp => ?_⟩, fun a _ => Memory.unlisted_eq a, rfl, by decide, rfl, rfl, by decide,
    rfl, rfl, rfl, fun row _ col _ => FrameBuffer.pixel_blank row col, rfl, rfl, by decide, rfl⟩
  cases p with
  | rndDraws => simp at hp
  | _ => rfl

end Sys2Proof.Machine

namespace Sys2Proof.Machine

/-! ### Memory transfers at I (spec/44_index_memory.md) -/

/-- A store of `bs` from I to I + `last`, wholly within MEM: the bytes at I upward, every other byte and place as before, PC
past the instruction. -/
theorem store_frame {s : State} (hm : s.mem.wf = true) {bs : List Byte} {last : Nat} (hlen : bs.length = last + 1)
    (hfit : s.i.toNat + last ≤ 4095) :
    (∀ (k : Nat) (h : k < bs.length),
      (s.setMem (s.mem.writeBytes s.i.toNat bs)).advance.byteAt (s.i.toNat + k) = bs[k]) ∧
    ChangesOnly (fun p => (∃ a, p = .mem a ∧ s.i.toNat ≤ a ∧ a ≤ s.i.toNat + last) ∨ p = .pc) s
      (s.setMem (s.mem.writeBytes s.i.toNat bs)).advance := by
  have hread := Memory.read_writeBytes hm bs (a := s.i.toNat) (by omega)
  refine ⟨fun k hk => ?_, fun p hp => ?_⟩
  · refine (hread (s.i.toNat + k)).trans ?_
    rw [dif_pos ⟨by omega, by omega⟩]
    simp
  · cases p with
    | mem a => exact (hread a).trans (dif_neg fun ha => hp (.inl ⟨a, rfl, ha.1, by omega⟩))
    | pc => simp at hp
    | _ => rfl

@[simp] theorem length_bcdDigits (b : Byte) : (bcdDigits b).length = 3 := rfl

/-- Hundreds, tens and ones, as numbers. -/
theorem bcdDigits_toNat (b : Byte) :
    (bcdDigits b)[0].toNat = b.toNat / 100 ∧ (bcdDigits b)[1].toNat = b.toNat / 10 % 10 ∧
      (bcdDigits b)[2].toNat = b.toNat % 10 := by
  have := b.isLt
  refine ⟨?_, ?_, ?_⟩ <;> refine (BitVec.toNat_ofNat ..).trans ?_ <;> omega

/-- Settles O42: the store of the three digits. -/
theorem storeDecimalDigits : Obligations.StoreDecimalDigits := by
  intro x s hm
  refine ⟨fun h => ?_, fun h => raisesFatal_of_exec (exec_of_raises (if_pos h))⟩
  obtain ⟨hbytes, hframe⟩ := store_frame hm (length_bcdDigits (s.reg x)) h
  obtain ⟨hhundreds, htens, hones⟩ := bcdDigits_toNat (s.reg x)
  exact ⟨_, exec_of_not_raises (if_neg (Nat.not_lt.2 h)), (congrArg BitVec.toNat (hbytes 0 (by simp))).trans hhundreds,
    (congrArg BitVec.toNat (hbytes 1 (by simp))).trans htens, (congrArg BitVec.toNat (hbytes 2 (by simp))).trans hones,
    rfl, hframe⟩

/-- Settles O43: the store of the registers up to Vx. -/
theorem storeRegisters : Obligations.StoreRegisters := by
  intro x s hm
  refine ⟨fun h => ?_, fun h => raisesFatal_of_exec (exec_of_raises (if_pos h))⟩
  obtain ⟨hbytes, hframe⟩ := store_frame hm (State.length_regsUpTo s x) h
  refine ⟨_, exec_of_not_raises (if_neg (Nat.not_lt.2 h)), fun r hr => ?_, rfl, hframe⟩
  have hlen : r.val < (s.regsUpTo x).length := by
    rw [State.length_regsUpTo]
    exact Nat.lt_succ_of_le hr
  exact (hbytes r.val hlen).trans (State.getElem_regsUpTo s x r.val hlen)

/-- Settles O44: `State.get_regsLoaded`, for the registers up to Vx and above. -/
theorem loadRegisters : Obligations.LoadRegisters := by
  intro x s
  refine ⟨fun h => ?_, fun h => raisesFatal_of_exec (exec_of_raises (if_pos h))⟩
  refine ⟨_, exec_of_not_raises (if_neg (Nat.not_lt.2 h)), fun r hr => ?_, rfl, fun p hp => ?_⟩
  · exact (State.get_regsLoaded s x r).trans (if_pos hr)
  · cases p with
    | reg r => exact (State.get_regsLoaded s x r).trans (if_neg fun hr => hp (.inl ⟨r, rfl, hr⟩))
    | pc => simp at hp
    | _ => rfl

/-- Settles O45: the load reads the bytes the store wrote, at the same I. -/
theorem storeThenLoadRestores : Obligations.StoreThenLoadRestores := by
  intro x s u w hm hfit hstore hmem hi
  obtain ⟨u', hu', hstored, -, hframe⟩ := (storeRegisters x s hm).1 hfit
  cases hstore.symm.trans hu'
  have hi' : w.i = s.i := hi.trans (hframe .i (by simp))
  obtain ⟨t, ht, hloaded, -, -⟩ := (loadRegisters x w).1 (by rw [hi']; exact hfit)
  refine ⟨t, ht, fun r hr => ?_⟩
  calc t.reg r = w.byteAt (w.i.toNat + r.val) := hloaded r hr
    _ = u.byteAt (s.i.toNat + r.val) := by rw [hi', State.byteAt, hmem, State.byteAt]
    _ = s.reg r := hstored r hr

/-! ### Loading a program, and the canonical form (spec/70_reset_and_hazards.md R345, notes/assumptions/10.md) -/

/-- Settles O54: the length decides; the bytes of an image that fits are a run of writes at 0x200. -/
theorem loadProgramAllOrNothing : Obligations.LoadProgramAllOrNothing := by
  intro bytes s hm
  refine ⟨loadProgram_of_gt s, fun h => ⟨_, loadProgram_of_le s h, fun k hk => ?_, fun p hp => ?_⟩⟩
  all_goals have hread := Memory.read_writeBytes hm bytes (a := 0x200) (by omega)
  · refine (hread (0x200 + k)).trans ?_
    rw [dif_pos ⟨by omega, by omega⟩]
    simp
  · cases p with
    | mem a => exact (hread a).trans (dif_neg fun ha => hp ⟨a, rfl, ha⟩)
    | _ => rfl

theorem Memory.wfFrom_cons {lo : Nat} {c : Host.Cell} {m : Memory} :
    Memory.wfFrom lo (c :: m) = true ↔
      lo ≤ c.1 ∧ c.1 < 4096 ∧ c.2 ≠ Memory.unlisted c.1 ∧ Memory.wfFrom (c.1 + 1) m = true := by
  simp only [Memory.wfFrom, Bool.and_eq_true, decide_eq_true_eq, and_assoc]

/-- The first cell of a canonical memory holds what no memory that is canonical above its address reads there. -/
theorem Memory.read_head_ne {lo lo' : Nat} {c : Host.Cell} {m m' : Memory} (hm : Memory.wfFrom lo (c :: m) = true)
    (hm' : Memory.wfFrom lo' m' = true) (hlo : c.1 < lo') : Memory.read (c :: m) c.1 ≠ m'.read c.1 := by
  obtain ⟨-, -, hne, -⟩ := Memory.wfFrom_cons.1 hm
  rw [Memory.read_below hm' hlo, Memory.read_cons, if_pos rfl]
  exact hne

/-- Canonical memories that read alike are the same list: their first cells stand at the same address, or one would read as
unlisted where the other does not. -/
theorem Memory.eq_of_read_eq {lo lo' : Nat} {m m' : Memory} (hm : Memory.wfFrom lo m = true)
    (hm' : Memory.wfFrom lo' m' = true) (h : ∀ a, m.read a = m'.read a) : m = m' := by
  induction m generalizing lo lo' m' with
  | nil =>
    cases m' with
    | nil => rfl
    | cons c' m' => exact absurd (h c'.1).symm (Memory.read_head_ne (lo' := c'.1 + 1) hm' rfl (Nat.lt_succ_self _))
  | cons c m ih =>
    cases m' with
    | nil => exact absurd (h c.1) (Memory.read_head_ne (lo' := c.1 + 1) hm rfl (Nat.lt_succ_self _))
    | cons c' m' =>
      obtain ⟨-, hlt, hne, htail⟩ := Memory.wfFrom_cons.1 hm
      obtain ⟨-, hlt', hne', htail'⟩ := Memory.wfFrom_cons.1 hm'
      have haddr : c.1 = c'.1 := by
        rcases Nat.lt_trichotomy c.1 c'.1 with hc | hc | hc
        · have hm'' : Memory.wfFrom c'.1 (c' :: m') = true := Memory.wfFrom_cons.2 ⟨le_rfl, hlt', hne', htail'⟩
          exact absurd (h c.1) (Memory.read_head_ne hm hm'' hc)
        · exact hc
        · have hm'' : Memory.wfFrom c.1 (c :: m) = true := Memory.wfFrom_cons.2 ⟨le_rfl, hlt, hne, htail⟩
          exact absurd (h c'.1).symm (Memory.read_head_ne hm' hm'' hc)
      have hbyte : c.2 = c'.2 := by
        have hc := h c.1
        rwa [Memory.read_cons, if_pos rfl, Memory.read_cons, if_pos haddr.symm] at hc
      have hrest : m = m' := by
        refine ih htail htail' fun a => ?_
        by_cases ha : c.1 = a
        · rw [Memory.read_below htail (by omega), Memory.read_below htail' (by omega)]
        · have hc := h a
          rwa [Memory.read_cons, if_neg ha, Memory.read_cons, if_neg (haddr ▸ ha)] at hc
      rw [Prod.ext haddr hbyte, hrest]

/-- Settles O55: `Memory.eq_of_read_eq`. -/
theorem canonicalMemoryIsUnique : Obligations.CanonicalMemoryIsUnique := fun _ _ => Memory.eq_of_read_eq

/-! ### Display (spec/45_display.md) -/

/-- Settles O46: the blank frame buffer. -/
theorem clearScreen : Obligations.ClearScreen := by
  intro s
  refine ⟨_, rfl, fun row _ col _ => FrameBuffer.pixel_blank row col, rfl, rfl, fun p hp => ?_⟩
  cases p with
  | pixel row col => exact absurd (.inl ⟨row, col, rfl⟩) hp
  | redraw | pc => simp at hp
  | _ => rfl

/-- The cell (row, col) is under a 1 bit of the k-row sprite at address `a` placed at (x0, y0). -/
def covers (m : Memory) (a x0 y0 k row col : Nat) : Bool :=
  decide (y0 ≤ row ∧ row < y0 + k ∧ x0 ≤ col ∧ col < x0 + 8) && (m.read (a + (row - y0))).getLsbD (7 - (col - x0))

/-- The sprite of DRW covers what the sprite at I, placed at (Vx mod 64, Vy mod 32), covers. -/
theorem State.spriteCovers_eq (s : State) (x y : Reg) (n row col : Nat) :
    s.spriteCovers x y n row col =
      covers s.mem s.i.toNat ((s.reg x).toNat % 64) ((s.reg y).toNat % 32) n row col := rfl

theorem covers_zero (m : Memory) (a x0 y0 row col : Nat) : covers m a x0 y0 0 row col = false := by
  rw [covers, decide_eq_false (by omega), Bool.false_and]

/-- The row below k rows of a sprite is not under them. -/
theorem covers_past (m : Memory) (a x0 y0 k col : Nat) : covers m a x0 y0 k (y0 + k) col = false := by
  rw [covers, decide_eq_false (by omega), Bool.false_and]

/-- A cell is under k + 1 rows of a sprite if it is under the first k or under the last. -/
theorem covers_succ (m : Memory) (a x0 y0 k row col : Nat) :
    covers m a x0 y0 (k + 1) row col =
      (covers m a x0 y0 k row col !=
        (decide (row = y0 + k ∧ x0 ≤ col ∧ col < x0 + 8) && (m.read (a + k)).getLsbD (7 - (col - x0)))) := by
  unfold covers
  by_cases hrow : row = y0 + k
  · subst hrow
    simp
  · have hlt : row < y0 + (k + 1) ↔ row < y0 + k := by omega
    simp [hrow, hlt]

/-- The same, as a proposition. -/
theorem covers_succ_iff {m : Memory} {a x0 y0 k row col : Nat} :
    covers m a x0 y0 (k + 1) row col = true ↔ covers m a x0 y0 k row col = true ∨
      (row = y0 + k ∧ x0 ≤ col ∧ col < x0 + 8 ∧ (m.read (a + k)).getLsbD (7 - (col - x0)) = true) := by
  rw [covers_succ]
  by_cases hrow : row = y0 + k
  · subst hrow
    simp [covers_past, and_assoc]
  · simp [hrow]

/-- The rows of a sprite flip the cells under its 1 bits. -/
theorem pixel_drawRows (m : Memory) (a x0 y0 k : Nat) (p : FrameBuffer × Bool) {r c : Nat} (hr : r < 32) (hc : c < 64) :
    (drawRows m a x0 y0 k p).1.pixel r c = (p.1.pixel r c != covers m a x0 y0 k r c) := by
  induction k with
  | zero =>
    rw [covers_zero, Bool.bne_false]
    rfl
  | succ k ih => rw [drawRows, pixel_drawColumns _ _ _ le_rfl _ hr hc, ih, covers_succ, Bool.bne_assoc]

/-- The rows of a sprite hit if a cell of the grid under one of its 1 bits was set: no row flips a cell of another. -/
theorem hit_drawRows (m : Memory) (a x0 y0 k : Nat) (p : FrameBuffer × Bool) :
    (drawRows m a x0 y0 k p).2 = true ↔
      p.2 = true ∨ ∃ r < 32, ∃ c < 64, p.1.pixel r c = true ∧ covers m a x0 y0 k r c = true := by
  induction k with
  | zero => simp [drawRows, covers_zero]
  | succ k ih =>
    rw [drawRows, hit_drawColumns _ _ _ le_rfl, ih, or_assoc]
    refine or_congr_right ⟨?_, ?_⟩
    · rintro (⟨r, hr, c, hc, hset, hcov⟩ | ⟨hr, c, hc, hlo, hhi, hbit, hset⟩)
      · exact ⟨r, hr, c, hc, hset, covers_succ_iff.2 (.inl hcov)⟩
      · rw [pixel_drawRows _ _ _ _ _ _ hr hc, covers_past, Bool.bne_false] at hset
        exact ⟨y0 + k, hr, c, hc, hset, covers_succ_iff.2 (.inr ⟨rfl, hlo, hhi, hbit⟩)⟩
    · rintro ⟨r, hr, c, hc, hset, hcov⟩
      rcases covers_succ_iff.1 hcov with hcov | ⟨rfl, hlo, hhi, hbit⟩
      · exact .inl ⟨r, hr, c, hc, hset, hcov⟩
      · refine .inr ⟨hr, c, hc, hlo, hhi, hbit, ?_⟩
        rwa [pixel_drawRows _ _ _ _ _ _ hr hc, covers_past, Bool.bne_false]

/-- A DRW flips the cells its sprite covers. -/
theorem State.pixel_draw (s : State) (x y : Reg) (n : Nat) {row col : Nat} (hr : row < 32) (hc : col < 64) :
    (s.draw x y n).fb.pixel row col = (s.fb.pixel row col != s.spriteCovers x y n row col) :=
  pixel_drawRows _ _ _ _ _ _ hr hc

/-- The registers after a DRW: VF is the collision flag, the others are kept. -/
theorem State.reg_draw (s : State) (x y : Reg) (n : Nat) (r : Reg) :
    (s.draw x y n).reg r = if r = Reg.vf then flagByte (s.drawn x y n).2 else s.reg r := State.reg_setReg _ _ _ r

/-- A DRW hits if a cell its sprite covers was set. -/
theorem State.drawn_hit_iff (s : State) (x y : Reg) (n : Nat) :
    (s.drawn x y n).2 = true ↔
      ∃ row < 32, ∃ col < 64, s.fb.pixel row col = true ∧ s.spriteCovers x y n row col = true := by
  refine (hit_drawRows _ _ _ _ _ _).trans ?_
  rw [or_iff_right Bool.false_ne_true]
  rfl

/-- A collision sets VF to 1. -/
theorem State.vf_draw_of_hit {s : State} {x y : Reg} {n : Nat}
    (h : ∃ row < 32, ∃ col < 64, s.fb.pixel row col = true ∧ s.spriteCovers x y n row col = true) :
    (s.draw x y n).reg Reg.vf = 1 := by
  rw [State.reg_draw, if_pos rfl, (State.drawn_hit_iff s x y n).2 h]
  rfl

/-- Without a collision VF is 0. -/
theorem State.vf_draw_of_clear {s : State} {x y : Reg} {n : Nat}
    (h : ∀ row < 32, ∀ col < 64, s.fb.pixel row col = true → s.spriteCovers x y n row col = false) :
    (s.draw x y n).reg Reg.vf = 0 := by
  have hmiss : (s.drawn x y n).2 = false := by
    rw [← Bool.not_eq_true, State.drawn_hit_iff]
    rintro ⟨row, hr, col, hc, hset, hcov⟩
    rw [h row hr col hc hset] at hcov
    cases hcov
  rw [State.reg_draw, if_pos rfl, hmiss]
  rfl

/-- A DRW whose sprite lies in memory draws it; one of no rows reads nothing (spec/45_display.md R262). -/
theorem exec_drw_of_fits {s : State} {n : Nibble} (h : n.val = 0 ∨ s.i.toNat + n.val - 1 ≤ 4095) (x y : Reg) :
    exec (.drw x y n) s = .next (s.draw x y n.val) := exec_of_not_raises (if_neg (by omega))

/-- Settles O47: the cells by `pixel_draw`, VF by the collision, and the bounds check. -/
theorem drawFlipsExactlyTheSprite : Obligations.DrawFlipsExactlyTheSprite := by
  intro x y n s
  refine ⟨fun h => ⟨_, exec_drw_of_fits h x y, fun row hr col hc => State.pixel_draw s x y n.val hr hc,
    State.vf_draw_of_hit, State.vf_draw_of_clear, rfl, rfl, fun p hp => ?_⟩,
    fun hn h => raisesFatal_of_exec (exec_of_raises (if_pos ⟨hn, h⟩))⟩
  cases p with
  | pixel row col => exact absurd (.inl ⟨row, col, rfl⟩) hp
  | reg r => exact (State.reg_draw s x y n.val r).trans (if_neg fun e => hp (.inr (.inl (congrArg _ e))))
  | redraw | pc => simp at hp
  | _ => rfl

/-- A DRW leaves what a second one at operands other than VF reads of the sprite and its place. -/
theorem State.spriteCovers_draw (s : State) {x y : Reg} (hx : x ≠ Reg.vf) (hy : y ≠ Reg.vf) (n k row col : Nat) :
    (s.draw x y n).spriteCovers x y k row col = s.spriteCovers x y k row col := by
  have hregx := (State.reg_draw s x y n x).trans (if_neg hx)
  have hregy := (State.reg_draw s x y n y).trans (if_neg hy)
  rw [State.spriteCovers_eq, State.spriteCovers_eq, hregx, hregy]
  rfl

/-- Settles O48: the second draw covers the same cells and flips them back; a covered cell is set before it exactly if it was
clear before the first. -/
theorem drawTwiceRestores : Obligations.DrawTwiceRestores := by
  intro x y n s hx hy hfit
  have hcov : ∀ row col, (s.draw x y n.val).spriteCovers x y n.val row col = s.spriteCovers x y n.val row col :=
    State.spriteCovers_draw s hx hy n.val n.val
  refine ⟨_, _, exec_drw_of_fits hfit x y, exec_drw_of_fits (s := s.draw x y n.val) hfit x y, fun row hr col hc => ?_,
    ?_, fun hclear => ?_⟩
  · rw [State.pixel_draw _ _ _ _ hr hc, State.pixel_draw _ _ _ _ hr hc, hcov, Bool.bne_assoc, bne_self_eq_false,
      Bool.bne_false]
  · rintro ⟨row, hr, col, hc, hpix, hset⟩
    refine State.vf_draw_of_hit ⟨row, hr, col, hc, ?_, (hcov row col).trans hset⟩
    rw [State.pixel_draw _ _ _ _ hr hc, hpix, hset]
    rfl
  · refine State.vf_draw_of_clear fun row hr col hc hset => ?_
    rw [hcov]
    rw [State.pixel_draw _ _ _ _ hr hc] at hset
    cases hpix : s.fb.pixel row col with
    | false => exact hclear row hr col hc hpix
    | true => simpa [hpix] using hset

end Sys2Proof.Machine
